-- ==== Sys2Proof/Word.lean ====
section
/-! DEFINITION. The bit widths of the block (spec/00_scope.md R9): a byte is 8 bits, a string length and a returned
count are 16 bits (`LEN_W`), a driver command word and an error report word are 32 bits, a circular-buffer port word is
10 bits (spec/30_encoding.md R95). Bit 0 is the least significant bit (R12). -/

namespace Sys2Proof

/-- A byte, and also an identifier of `ID_W = 8` bits (R9). -/
abbrev Byte := BitVec 8

/-- A string length or a returned count, `LEN_W = 16` bits, unsigned (R9). -/
abbrev Len := BitVec 16

/-- A format D command word or an error report word (R91, R213). -/
abbrev Word := BitVec 32

/-- A format F word of a circular-buffer port (R95). -/
abbrev FWord := BitVec 10

end Sys2Proof
end

