-- ==== Sys2Proof/Config.lean ====
section
/-! DEFINITION. What one configuration of the block fixes (spec/00_scope.md R6 to R11): plain data that no step changes.
`State` carries one `Config`, so a statement about every state is a statement about every configuration. The one free
value of the model, the byte a peripheral answers when no answer is scripted, is the constant without a body at the
end. -/

namespace Sys2Proof

/-- `stop_bits ∈ {1, 2}` (spec/10_state.md R36): legal by type. -/
inductive StopBits where
  | one
  | two
deriving DecidableEq, Repr

/-- `parity ∈ {none, even, odd}` (spec/10_state.md R36). -/
inductive Parity where
  | none
  | even
  | odd
deriving DecidableEq, Repr

/-- One record of the configuration table `CFG` (spec/10_state.md R36). -/
structure CfgRecord where
  instanceId : Nat
  baudRate   : BitVec 32
  stopBits   : StopBits
  parity     : Parity
deriving DecidableEq, Repr

/-- The constants of one UART: `CAP_TX[i]`, `CAP_RX[i]` (R7) and `UART_BASE[i]` (R10). -/
structure InstParams where
  capTx : Nat
  capRx : Nat
  base  : Nat
deriving DecidableEq, Repr

/-- The five bit positions of `STATUS` (spec/10_state.md R32). -/
structure StatusBits where
  rxc : Fin 8
  txe : Fin 8
  fe  : Fin 8
  ovr : Fin 8
  pe  : Fin 8
deriving DecidableEq, Repr

/-- `off(REG)` of the six registers (spec/20_memory.md R61). -/
structure RegOffsets where
  data   : Nat
  status : Nat
  en     : Nat
  fmt    : Nat
  baudL  : Nat
  baudH  : Nat
deriving DecidableEq, Repr

/-- The six offsets as a list. -/
def RegOffsets.all (o : RegOffsets) : List Nat := [o.data, o.status, o.en, o.fmt, o.baudL, o.baudH]

/-- The bit positions of `EN` (spec/10_state.md R34). -/
structure EnLayout where
  rxen : Fin 8
  txen : Fin 8
deriving DecidableEq, Repr

/-- The lowest bit of each field of `FMT` (spec/10_state.md R35): `PAR` has two bits, `STOP` one, `CHSZ` four. The types
keep every field inside the byte. -/
structure FmtLayout where
  par  : Fin 7
  stop : Fin 8
  chsz : Fin 5
deriving DecidableEq, Repr

/-- The bit positions the three fields of `FMT` take. -/
def FmtLayout.bits (l : FmtLayout) : List Nat :=
  [l.par.val, l.par.val + 1, l.stop.val, l.chsz.val, l.chsz.val + 1, l.chsz.val + 2, l.chsz.val + 3]

/-- The loss policies the source names (R11). Only the defaults have a meaning. -/
inductive LossPolicy where
  | drop
  | block
  | reportAndDrop
deriving DecidableEq, Repr

/-- The five error kinds (spec/60_exceptions.md R211): `E_PARAM`, `E_TB_NEMPTY`, `E_FRAMING`, `E_OVERRUN`,
`E_PARITY`. -/
inductive ErrorKind where
  | param
  | tbNempty
  | framing
  | overrun
  | parity
deriving DecidableEq, Repr

/-- An error report, the flat four-field record (spec/10_state.md R30, spec/60_exceptions.md R213). -/
structure Report where
  moduleId    : Byte
  instanceId  : Byte
  operationId : Byte
  kind        : ErrorKind
deriving DecidableEq, Repr

/-- The parameters of the block (R6 to R11). `offsets`, `statusBits`, `enLayout` and `fmtLayout` are the register offsets
and bit positions, which R10 leaves OPEN and gives defaults. `params` has one entry per UART, so `N_INST` is its length. `halts` is the
predicate `REPORTER_HALTS` written out as the list of the reports it holds of (a report has finitely many values).
`fifoCap` is the capacity of the stand-alone circular buffer behind the format F port (spec/30_encoding.md R95; log 10).
DESIGN CHOICE: the parameters are plain data in the state (log 4), `REPORTER_HALTS` a list (log 5). -/
structure Config where
  params       : List InstParams
  fClk         : Nat
  table        : List CfgRecord
  moduleId     : Byte
  halts        : List Report
  statusBits   : StatusBits
  offsets      : RegOffsets
  enLayout     : EnLayout
  fmtLayout    : FmtLayout
  txBusyPolicy : LossPolicy
  rxFullPolicy : LossPolicy
  fifoCap      : Nat
deriving DecidableEq, Repr

/-- `N_INST` (R6). -/
def Config.nInst (c : Config) : Nat := c.params.length

/-- The default bit positions of `STATUS` (spec/10_state.md R32). -/
def StatusBits.standard : StatusBits := { rxc := 7, txe := 5, fe := 4, ovr := 3, pe := 2 }

/-- The default register offsets (spec/20_memory.md R61). -/
def RegOffsets.standard : RegOffsets := { data := 0, status := 1, en := 2, fmt := 3, baudL := 4, baudH := 5 }

/-- The default layout of `EN` (spec/10_state.md R34). -/
def EnLayout.standard : EnLayout := { rxen := 0, txen := 1 }

/-- The default layout of `FMT` (spec/10_state.md R35). -/
def FmtLayout.standard : FmtLayout := { par := 0, stop := 2, chsz := 4 }

/-- The configuration the model's reset state is built with: the one of spec/95_test_vectors.md program P1, with the
spec's defaults (R10, R11) where it gives them. DESIGN CHOICE (log 2): every parameter here is OPEN in the spec. -/
def Config.standard : Config where
  params       := [{ capTx := 4, capRx := 4, base := 0 }]
  fClk         := 16000000
  table        := [{ instanceId := 0, baudRate := 9600, stopBits := .one, parity := .none }]
  moduleId     := 1
  halts        := []
  statusBits   := .standard
  offsets      := .standard
  enLayout     := .standard
  fmtLayout    := .standard
  txBusyPolicy := .reportAndDrop
  rxFullPolicy := .drop
  fifoCap      := 4

/-- FREE VALUE (log 3): the byte a peripheral answers to the `n`-th register read that no scripted answer covers. The
spec binds it by no law (spec/20_memory.md R69 (d), R74; spec/93_implementation_defined.md U7). -/
opaque Config.drawnByte : Nat → Byte

end Sys2Proof
end

