-- ==== Sys2Proof/Machine/Baud.lean ====
section
/-! DEFINITION. The numbers INIT writes to the control registers: the baud-rate divisor (spec/41_init.md R141), its two
bytes (R142, spec/20_memory.md R64) and the frame-format byte (R142, spec/10_state.md R35). -/

namespace Sys2Proof.Machine

/-- `floor(F_CLK / (16 * baud)) - 1` in unbounded integers (spec/41_init.md R141): the subtraction comes after the
rounding, and the value is negative when `16 * baud > F_CLK`. -/
def divisorExact (fClk baud : Nat) : Int := ((fClk / (16 * baud) : Nat) : Int) - 1

/-- The divisor as the 16-bit quantity the registers hold; exact for a well-formed configuration (R141, R144). -/
def divisor (fClk : Nat) (baud : BitVec 32) : BitVec 16 := BitVec.ofInt 16 (divisorExact fClk baud.toNat)

/-- Bits 7:0 of the divisor, the byte of `BAUD_L`. -/
def divisorLow (d : BitVec 16) : Byte := d.extractLsb' 0 8

/-- Bits 15:8 of the divisor, the byte of `BAUD_H`. -/
def divisorHigh (d : BitVec 16) : Byte := d.extractLsb' 8 8

/-- `STOP`: 0 for one stop bit, 1 for two (spec/10_state.md R35). -/
def stopCode : StopBits → Byte
  | .one => 0
  | .two => 1

/-- `PAR`: 0 none, 1 even, 2 odd (spec/10_state.md R35). -/
def parCode : Parity → Byte
  | .none => 0
  | .even => 1
  | .odd => 2

/-- `CHSZ`: 8 data bits per frame (spec/10_state.md R35). -/
def chszCode : Byte := 8

/-- `FmtByte(stop_bits, parity)`: `CHSZ`, `STOP` and `PAR` at their positions and zero elsewhere, which with the default
positions is `0x80 | (STOP << 2) | PAR` (spec/41_init.md R142, spec/00_scope.md R10). -/
def fmtByte (l : FmtLayout) (stop : StopBits) (par : Parity) : Byte :=
  (chszCode <<< l.chsz.val) ||| (stopCode stop <<< l.stop.val) ||| (parCode par <<< l.par.val)

/-- The byte INIT writes to `EN`: `RXEN` and `TXEN` set and zero elsewhere, with the default positions `0x03`
(spec/10_state.md R34, spec/00_scope.md R10). -/
def enByte (l : EnLayout) : Byte := (1#8 <<< l.rxen.val) ||| (1#8 <<< l.txen.val)

end Sys2Proof.Machine
end

