-- ==== Sys2Proof/Syntax.lean ====
section
/-! DEFINITION. The instruction set as syntax: one constructor per row of spec/opcode_table.json, with exactly the free
fields of its row (spec/30_encoding.md R94, R95). -/

namespace Sys2Proof

/-- The two formats (spec/30_encoding.md R91, R95): `d` is a driver command, `f` a circular-buffer primitive. -/
inductive Format where
  | d
  | f
deriving DecidableEq, Repr

/-- The twelve operations (spec/30_encoding.md R90). `pv` is the pointer-valid bit (R92), `inst` the 8-bit identifier,
`len` the 16-bit length (R93). -/
inductive Instr where
  | cbCreate
  | cbEnq (byte : Byte)
  | cbDeq
  | cbPeekLast
  | init (pv : Bool)
  | sendUpdate (inst : Byte)
  | recvUpdate (inst : Byte)
  | sendByte (inst : Byte) (byte : Byte)
  | recvByte (pv : Bool) (inst : Byte)
  | sendString (pv : Bool) (inst : Byte) (len : Len)
  | recvString (pv : Bool) (inst : Byte) (len : Len)
  | peekLastByte (pv : Bool) (inst : Byte)
deriving DecidableEq, Repr

/-- The format an operation is spelled in. -/
def Instr.format : Instr → Format
  | .cbCreate => .f
  | .cbEnq _ => .f
  | .cbDeq => .f
  | .cbPeekLast => .f
  | .init _ => .d
  | .sendUpdate _ => .d
  | .recvUpdate _ => .d
  | .sendByte _ _ => .d
  | .recvByte _ _ => .d
  | .sendString _ _ _ => .d
  | .recvString _ _ _ => .d
  | .peekLastByte _ _ => .d

end Sys2Proof
end

