-- ==== Sys2Proof/WellFormed.lean ====
section
/-! DEFINITION. What is well-formed. (1) An operation on a port: a format F primitive belongs to the port of a
stand-alone buffer, a format D command to a driver port ("a caller of the driver cannot issue them",
spec/30_encoding.md R95); the operand ranges of R93 hold by the operands' types. (2) A configuration: the conditions of
spec/00_scope.md R6, R7, R8, R10, R11, spec/10_state.md R32, R34, R35, spec/20_memory.md R61 and
spec/41_init.md R141, R144, each a check with a name of its own. `stop_bits` and `parity` are legal by their types. -/

namespace Sys2Proof

/-- The operation may be presented on a port of this format. -/
def Instr.wfOn (i : Instr) (port : Format) : Bool := i.format == port

/-- `1 <= N_INST <= 255` (R6). -/
def Config.nInstOk (c : Config) : Bool := decide (1 ≤ c.nInst) && decide (c.nInst ≤ 255)

/-- `1 <= CAP <= 65535` (R7). -/
def capOk (cap : Nat) : Bool := decide (1 ≤ cap) && decide (cap ≤ 65535)

/-- Every capacity, the stand-alone buffer's among them, is in range (R7). -/
def Config.capsOk (c : Config) : Bool :=
  (c.params.all fun p => capOk p.capTx && capOk p.capRx) && capOk c.fifoCap

/-- `F_CLK` is a positive integer (R8). -/
def Config.clockOk (c : Config) : Bool := decide (0 < c.fClk)

/-- The table has exactly `N_INST` records (R144). -/
def Config.tableLenOk (c : Config) : Bool := c.table.length == c.nInst

/-- The identifiers of the records lie in `0 .. N_INST-1` (R144). -/
def Config.idsInRange (c : Config) : Bool := c.table.all fun r => decide (r.instanceId < c.nInst)

/-- The identifiers of the records are pairwise distinct (R144). -/
def Config.idsDistinct (c : Config) : Bool := decide (c.table.map (·.instanceId)).Nodup

/-- `baud_rate >= 1` (R144). -/
def Config.baudsPositive (c : Config) : Bool := c.table.all fun r => decide (1 ≤ r.baudRate.toNat)

/-- `0 <= Divisor <= 0xFFFF` (R141). -/
def divisorInRange (fClk : Nat) (r : CfgRecord) : Bool :=
  decide (0 ≤ Machine.divisorExact fClk r.baudRate.toNat) && decide (Machine.divisorExact fClk r.baudRate.toNat ≤ 0xFFFF)

/-- Every record's divisor is in range (R141, R144). -/
def Config.divisorsOk (c : Config) : Bool := c.table.all (divisorInRange c.fClk)

/-- The five bit positions are pairwise distinct (spec/10_state.md R32). -/
def Config.statusBitsOk (c : Config) : Bool :=
  decide [c.statusBits.rxc, c.statusBits.txe, c.statusBits.fe, c.statusBits.ovr, c.statusBits.pe].Nodup

/-- The six registers have six offsets (spec/20_memory.md R61, spec/00_scope.md R10; log 18). -/
def Config.offsetsOk (c : Config) : Bool := decide c.offsets.all.Nodup

/-- `RXEN` and `TXEN` are two bits (spec/10_state.md R34, spec/00_scope.md R10; log 18). -/
def Config.enLayoutOk (c : Config) : Bool := c.enLayout.rxen != c.enLayout.txen

/-- The fields of `FMT` do not overlap (spec/10_state.md R35, spec/00_scope.md R10; log 18). -/
def Config.fmtLayoutOk (c : Config) : Bool := decide c.fmtLayout.bits.Nodup

/-- The register windows of two instances do not overlap: no register of one has the address of a register of the other.
With the default offsets the windows are `base .. base + 5` (spec/20_memory.md R61; log 18). -/
abbrev windowsApart (o : RegOffsets) (p q : InstParams) : Prop :=
  ∀ a ∈ o.all, ∀ b ∈ o.all, p.base + a ≠ q.base + b

/-- No two register windows overlap (spec/20_memory.md R61). -/
def Config.windowsOk (c : Config) : Bool := decide (c.params.Pairwise (windowsApart c.offsets))

/-- Only the default loss policies are admitted (R11). -/
def Config.policiesOk (c : Config) : Bool := c.txBusyPolicy == .reportAndDrop && c.rxFullPolicy == .drop

/-- A configuration the model admits; any other is refused (spec/93_implementation_defined.md U5, U6). -/
def Config.wf (c : Config) : Bool :=
  [c.nInstOk, c.capsOk, c.clockOk, c.tableLenOk, c.idsInRange, c.idsDistinct, c.baudsPositive, c.divisorsOk,
    c.statusBitsOk, c.offsetsOk, c.enLayoutOk, c.fmtLayoutOk, c.windowsOk, c.policiesOk].all id

end Sys2Proof
end

