-- ==== Sys2Proof/Decode.lean ====
section
/-! DEFINITION. Decoding and encoding (spec/30_encoding.md R91 to R100). Decoding is total on every word of either format
and rejects an illegal word by name (R96); it looks at no state (R100). The encoder is written from the same tables. -/

namespace Sys2Proof

/-- A presented word: a 32-bit format D word or a 10-bit format F word; the port decides which. -/
inductive CmdWord where
  | d (w : Word)
  | f (w : FWord)
deriving DecidableEq, Repr

/-- Why a word is illegal (spec/30_encoding.md R96). -/
inductive Illegal where
  /-- `opcode` is 8 .. 15. -/
  | reservedOpcode
  /-- `rsv != 0`. -/
  | reservedBits
  /-- `PV = 1` on an operation without a pointer. -/
  | pointerOnPointerless
  /-- A must-be-zero field of R93 is not zero. -/
  | mustBeZero
  /-- A format F word with `op != 1` and `byte != 0`. -/
  | byteOnByteless
deriving DecidableEq, Repr

/-- `cmd[31:28]` (R91). -/
def opcodeField (w : Word) : BitVec 4 := w.extractLsb' 28 4

/-- `cmd[27:25]` (R91). -/
def rsvField (w : Word) : BitVec 3 := w.extractLsb' 25 3

/-- `cmd[24]` (R92). -/
def pvField (w : Word) : Bool := w.getLsbD 24

/-- `cmd[23:16]` (R93). -/
def instField (w : Word) : Byte := w.extractLsb' 16 8

/-- `cmd[15:0]` (R93). -/
def operandField (w : Word) : Len := w.extractLsb' 0 16

/-- `cmd[7:0]`, the byte of SEND_BYTE (R93). -/
def byteField (w : Word) : Byte := w.extractLsb' 0 8

/-- `cmd[15:8]`, which SEND_BYTE needs zero (R93). -/
def operandHigh (w : Word) : Byte := w.extractLsb' 8 8

/-- `i` if the must-be-zero fields are zero, and the rejection otherwise. -/
def needZero (zero : Bool) (i : Instr) : Except Illegal Instr := if zero then .ok i else .error .mustBeZero

/-- As `needZero`, for an operation that has no pointer and needs `PV = 0` (R92). -/
def needNoPointer (w : Word) (zero : Bool) (i : Instr) : Except Illegal Instr :=
  if pvField w then .error .pointerOnPointerless else needZero zero i

/-- The rows of R94, by opcode, once `rsv` is known to be zero. -/
def decodeRow (w : Word) : Except Illegal Instr :=
  match (opcodeField w).toNat with
  | 0 => needZero (instField w == 0 && operandField w == 0) (.init (pvField w))
  | 1 => needNoPointer w (operandField w == 0) (.sendUpdate (instField w))
  | 2 => needNoPointer w (operandField w == 0) (.recvUpdate (instField w))
  | 3 => needNoPointer w (operandHigh w == 0) (.sendByte (instField w) (byteField w))
  | 4 => needZero (operandField w == 0) (.recvByte (pvField w) (instField w))
  | 5 => .ok (.sendString (pvField w) (instField w) (operandField w))
  | 6 => .ok (.recvString (pvField w) (instField w) (operandField w))
  | 7 => needZero (operandField w == 0) (.peekLastByte (pvField w) (instField w))
  | _ => .error .reservedOpcode

/-- Decoding of a format D word, total on all `2^32` words (R100). -/
def decodeD (w : Word) : Except Illegal Instr :=
  if 8 ≤ (opcodeField w).toNat then .error .reservedOpcode
  else if rsvField w != 0 then .error .reservedBits
  else decodeRow w

/-- `fop[9:8]` (R95). -/
def fopField (w : FWord) : BitVec 2 := w.extractLsb' 8 2

/-- `fop[7:0]` (R95). -/
def fbyteField (w : FWord) : Byte := w.extractLsb' 0 8

/-- `i` if the byte field is zero, and the rejection otherwise (R95, R96). -/
def needNoByte (w : FWord) (i : Instr) : Except Illegal Instr :=
  if fbyteField w == 0 then .ok i else .error .byteOnByteless

/-- Decoding of a format F word (R95), total on all `2^10` words. -/
def decodeF (w : FWord) : Except Illegal Instr :=
  match (fopField w).toNat with
  | 0 => needNoByte w .cbCreate
  | 1 => .ok (.cbEnq (fbyteField w))
  | 2 => needNoByte w .cbDeq
  | _ => needNoByte w .cbPeekLast

/-- The decoder. -/
def decode : CmdWord → Except Illegal Instr
  | .d w => decodeD w
  | .f w => decodeF w

/-- `opcode << 28 | PV << 24 | inst << 16 | operand` with `rsv` zero (R91, R100). -/
def packD (opcode : BitVec 4) (pv : Bool) (inst : Byte) (operand : Len) : Word :=
  opcode ++ 0#3 ++ BitVec.ofBool pv ++ inst ++ operand

/-- `op << 8 | byte` (R95). -/
def packF (op : BitVec 2) (byte : Byte) : FWord := op ++ byte

/-- The word of an operation (R94, R95, R100). -/
def encode : Instr → CmdWord
  | .cbCreate => .f (packF 0 0)
  | .cbEnq byte => .f (packF 1 byte)
  | .cbDeq => .f (packF 2 0)
  | .cbPeekLast => .f (packF 3 0)
  | .init pv => .d (packD 0 pv 0 0)
  | .sendUpdate inst => .d (packD 1 false inst 0)
  | .recvUpdate inst => .d (packD 2 false inst 0)
  | .sendByte inst byte => .d (packD 3 false inst (0#8 ++ byte))
  | .recvByte pv inst => .d (packD 4 pv inst 0)
  | .sendString pv inst len => .d (packD 5 pv inst len)
  | .recvString pv inst len => .d (packD 6 pv inst len)
  | .peekLastByte pv inst => .d (packD 7 pv inst 0)

/-- A word as spec/opcode_table.json numbers it: the four format F rows are 10 bits wide, so at most 16 bits in whole
bytes, the eight format D rows 32 bits. A command is taken whole, so there is no byte order to choose (R91, R95; DEDUCED,
log 17). -/
def tableWord (nbits w : Nat) : Option CmdWord :=
  if nbits ≤ 16 then
    if w < 2 ^ 10 then some (.f (BitVec.ofNat 10 w)) else none
  else
    if w < 2 ^ 32 then some (.d (BitVec.ofNat 32 w)) else none

/-- What the decoder reads from an opcode-table word; `none` where it refuses. -/
def decodeTableWord (nbits w : Nat) : Option Instr :=
  match tableWord nbits w with
  | some c => (decode c).toOption
  | none => none

end Sys2Proof
end

