-- ==== Sys2Proof/Machine/State.lean ====
section
/-! DEFINITION. The machine's state as plain data (spec/10_state.md), the reasons a step can stop, and the state right
after reset (spec/10_state.md R41, spec/70_reset_and_hazards.md R250). -/

namespace Sys2Proof.Machine

/-- The driver's two command ports (spec/00_scope.md R16). -/
inductive Port where
  | fg
  | tick
deriving DecidableEq, Repr

/-- Who takes the next step (spec/20_memory.md R68): a driver port, the port of the stand-alone circular buffer
(spec/30_encoding.md R95), or the hardware reset line (spec/70_reset_and_hazards.md R250). The peripheral's own steps
appear only as the bytes it answers to register reads (R69 (d)). -/
inductive Agent where
  | port (p : Port)
  | fifo
  | hwReset
deriving DecidableEq, Repr

/-- The six registers of a peripheral, as the block sees them (spec/10_state.md R31). -/
inductive Reg where
  | data
  | status
  | en
  | fmt
  | baudL
  | baudH
deriving DecidableEq, Repr

/-- The result of a command (spec/30_encoding.md R99). -/
inductive Result where
  | none
  | ok (b : Bool)
  | count (n : Len)
deriving DecidableEq, Repr

/-- A circular buffer (spec/10_state.md R20). `st` is the backing storage; its length is the capacity, so storage and
capacity are bound together as one constant (spec/40_circular_buffer.md R121). -/
structure Buffer where
  st    : List Byte
  head  : Nat
  tail  : Nat
  count : Nat
deriving DecidableEq, Repr

/-- `B.cap` (spec/10_state.md R20). -/
def Buffer.cap (b : Buffer) : Nat := b.st.length

/-- One UART (spec/10_state.md R24, R27, R29): its two buffers, the configuration latches, the shadow byte and the
ready bit. -/
structure Uart where
  tx     : Buffer
  rx     : Buffer
  baud   : BitVec 32
  stop   : StopBits
  par    : Parity
  lastRx : Byte
  ready  : Bool
deriving DecidableEq, Repr

/-- A command presented on a driver port (spec/30_encoding.md R91, R98, spec/20_memory.md R76): its word, the caller's
source bytes `Src`, the caller's destination positions, and, once a string command is past its validation step, the
index `k` of the next byte (spec/10_state.md R37). -/
structure Command where
  word     : Word
  src      : List Byte
  dst      : List Byte
  progress : Option Nat
deriving DecidableEq, Repr

/-- What the block does to the outside, in order (spec/00_scope.md R17): register accesses, error reports, output bytes
and results. `ret` carries the caller's destination as the command leaves it (DESIGN CHOICE, log 14: one trace). -/
inductive Event where
  | regRead (inst : Nat) (reg : Reg) (v : Byte)
  | regWrite (inst : Nat) (reg : Reg) (v : Byte)
  | report (r : Report)
  | outWrite (p : Port) (k : Nat) (b : Byte)
  | ret (p : Port) (r : Result) (dst : List Byte)
  | fifoOut (k : Nat) (b : Byte)
  | fifoRet (r : Result)
deriving DecidableEq, Repr

/-- The peripheral register space as the block's writes have left it (spec/20_memory.md R60 (1), R61): address and byte
pairs with strictly rising addresses. An address the block has not written is unlisted and holds no value (R41: "not in
source: unspecified"); no rule reads this memory back, a register read is answered by the peripheral (DESIGN CHOICE,
log 12). -/
abbrev Memory := List Host.Cell

/-- The stand-alone circular buffer behind the format F port (spec/30_encoding.md R95): the buffer, the words presented
on its port, and the port's destination position 0. DESIGN CHOICE (log 10): one such buffer stands in the state. -/
structure Fifo where
  buf   : Buffer
  queue : List FWord
  out   : Byte
deriving DecidableEq, Repr

/-- The state. `config` is the parameters (no step writes it), `uarts` the instances, `mem` the register space as
written, `fg` and `tick` the commands presented on the driver ports, oldest first, the first one the command that is
running or next. `turn` is the driver port whose step this is. `sched` says which agent steps next (the environment's
choice, spec/20_memory.md R68), `answers` the bytes the peripherals answer to register reads, in order, and `draws`
counts the reads no listed answer covered. `trace` is what the block has done to the outside, and `halted` the report the
Error Reporter did not return from (spec/60_exceptions.md R215). -/
structure State where
  config  : Config
  uarts   : List Uart
  mem     : Memory
  fg      : List Command
  tick    : List Command
  turn    : Port
  sched   : List Agent
  answers : List Byte
  draws   : Nat
  trace   : List Event
  halted  : Option Report
  fifo    : Fifo
deriving DecidableEq, Repr

/-- Why the machine is stuck. Safe: the machine stops where the hardware is stopped too. -/
inductive Fault where
  /-- Raised by `step` in a state whose `halted` names a report: the Error Reporter never returned from it, and the
  block is stopped for good (spec/60_exceptions.md R215, spec/93_implementation_defined.md U8). -/
  | reporterHalted (r : Report)
deriving DecidableEq, Repr

/-- Why the model gives a step no meaning. Each is safe: the model stops where the hardware would do something. A refusal
ends the run (DESIGN CHOICE, log 13). -/
inductive Refusal where
  /-- Raised by `exec` for an instruction that has no meaning in the model yet. -/
  | notModelled (mnemonic : String)
  /-- Raised by `step` for an illegal word: `refuse IllegalCommand` (spec/30_encoding.md R96). -/
  | illegalCommand (why : Illegal)
  /-- Raised by every command but INIT while the block is Uninitialized: `refuse NotInitialized`
  (spec/70_reset_and_hazards.md R251). -/
  | notInitialized
  /-- Raised by a command with a valid pointer and fewer source bytes or destination positions than it uses:
  `refuse BadExtent` (spec/20_memory.md R76, spec/93_implementation_defined.md U4). -/
  | badExtent
  /-- Raised by `step` in a state built with a malformed configuration (spec/41_init.md R141, R144,
  spec/93_implementation_defined.md U5, U6). -/
  | malformedConfig
  /-- Raised by `step` for a hardware reset while a string command is between two of its steps
  (spec/93_implementation_defined.md U12). -/
  | resetInsideCommand
deriving DecidableEq, Repr

/-- A buffer of capacity `cap` before Create. The spec gives no field a value (R41); DESIGN CHOICE (log 1): zero. -/
def Buffer.blank (cap : Nat) : Buffer := { st := List.replicate cap 0, head := 0, tail := 0, count := 0 }

/-- An instance right after reset: `ready` is 0 (R41), every other field is the DESIGN CHOICE of log 1. -/
def Uart.blank (p : InstParams) : Uart where
  tx     := .blank p.capTx
  rx     := .blank p.capRx
  baud   := 0
  stop   := .one
  par    := .none
  lastRx := 0
  ready  := false

/-- The machine right after reset, built with the configuration `c` and with nothing presented. -/
def State.resetWith (c : Config) : State where
  config  := c
  uarts   := c.params.map Uart.blank
  mem     := []
  fg      := []
  tick    := []
  turn    := .fg
  sched   := []
  answers := []
  draws   := 0
  trace   := []
  halted  := none
  fifo    := { buf := .blank c.fifoCap, queue := [], out := 0 }

/-- The machine right after reset (spec/10_state.md R41, spec/70_reset_and_hazards.md R250). -/
def State.reset : State := State.resetWith Config.standard

end Sys2Proof.Machine
end

