-- ==== Sys2Proof/Machine/Flags.lean ====
section
/-! DEFINITION. The status flags of a peripheral (spec/10_state.md R32), and the numbers of error reports
(spec/60_exceptions.md R211 to R213). The buffer flags `full` and `empty` are in Machine/Buffer.lean. -/

namespace Sys2Proof.Machine

/-- `rxc(s)`: receive complete. -/
def rxc (c : Config) (s : Byte) : Bool := s.getLsbD c.statusBits.rxc.val

/-- `txe(s)`: transmit data register empty. -/
def txe (c : Config) (s : Byte) : Bool := s.getLsbD c.statusBits.txe.val

/-- `fe(s)`: framing error. -/
def fe (c : Config) (s : Byte) : Bool := s.getLsbD c.statusBits.fe.val

/-- `ovr(s)`: overrun error. -/
def ovr (c : Config) (s : Byte) : Bool := s.getLsbD c.statusBits.ovr.val

/-- `pe(s)`: parity error. -/
def pe (c : Config) (s : Byte) : Bool := s.getLsbD c.statusBits.pe.val

/-- One of the three line-error flags is set (spec/42_update.md R156). -/
def lineError (c : Config) (s : Byte) : Bool := fe c s || ovr c s || pe c s

/-- The code of an error kind (R211). -/
def kindCode : ErrorKind → Byte
  | .param => 1
  | .tbNempty => 2
  | .framing => 3
  | .overrun => 4
  | .parity => 5

/-- The report on the report port, one 32-bit word (R213). -/
def reportWord (r : Report) : Word := r.moduleId ++ r.instanceId ++ r.operationId ++ kindCode r.kind

/-- `OP_INIT` (R212). -/
def opInit : Byte := 0

/-- `OP_SEND_UPDATE` (R212). -/
def opSendUpdate : Byte := 1

/-- `OP_RECV_UPDATE` (R212). -/
def opRecvUpdate : Byte := 2

/-- `OP_SEND_BYTE` (R212). -/
def opSendByte : Byte := 3

/-- `OP_RECV_BYTE` (R212). -/
def opRecvByte : Byte := 4

/-- `OP_SEND_STRING` (R212). -/
def opSendString : Byte := 5

/-- `OP_RECV_STRING` (R212). -/
def opRecvString : Byte := 6

/-- `OP_PEEK_LAST_BYTE` (R212). -/
def opPeekLastByte : Byte := 7

end Sys2Proof.Machine
end

