-- ==== Sys2Proof/Machine/Buffer.lean ====
section
/-! DEFINITION. The circular-buffer primitives as functions of one buffer (spec/40_circular_buffer.md R120 to R127).
Each is one atomic step wherever it is used (spec/20_memory.md R70). -/

namespace Sys2Proof.Machine

/-- `B.full` (spec/10_state.md R23). -/
def Buffer.full (b : Buffer) : Bool := b.count == b.cap

/-- `B.empty` (spec/10_state.md R23). -/
def Buffer.empty (b : Buffer) : Bool := b.count == 0

/-- Create: `head`, `tail`, `count` to zero, the storage not written (R121). -/
def Buffer.create (b : Buffer) : Buffer := { b with head := 0, tail := 0, count := 0 }

/-- Enqueue (R122): `none` when the buffer is full, else the buffer with the byte at the old tail. -/
def Buffer.enq (b : Buffer) (byte : Byte) : Option Buffer :=
  if b.full then none
  else some { b with
    st    := b.st.set b.tail byte
    tail  := (b.tail + 1) % b.cap
    count := b.count + 1 }

/-- Dequeue (R123): `none` when the buffer is empty, else the byte at the old head and the buffer after it. An index
outside the storage, which the invariant rules out (spec/10_state.md R21), reads 0 (log 15). -/
def Buffer.deq (b : Buffer) : Option (Byte × Buffer) :=
  if b.empty then none
  else some (b.st.getD b.head 0, { b with
    head  := (b.head + 1) % b.cap
    count := b.count - 1 })

/-- The index behind the tail (R124, R125). -/
def Buffer.behindTail (b : Buffer) : Nat := (b.tail + b.cap - 1) % b.cap

/-- PeekLast (R124): `none` when the buffer is empty, else the byte behind the tail. -/
def Buffer.peekLast (b : Buffer) : Option Byte :=
  if b.empty then none else some (b.st.getD b.behindTail 0)

/-- The stored bytes, oldest first (spec/10_state.md R21). -/
def Buffer.contents (b : Buffer) : List Byte :=
  (List.range b.count).map fun j => b.st.getD ((b.head + j) % b.cap) 0

end Sys2Proof.Machine
end

