-- ==== Sys2Proof/Machine/Operands.lean ====
section
/-! DEFINITION. The operands of a driver command: the instance it names, and the caller's bytes that accompany it
(spec/20_memory.md R76, spec/30_encoding.md R92, R93, R98). -/

namespace Sys2Proof.Machine

/-- The commands presented on a driver port, oldest first. -/
def State.queue (s : State) : Port → List Command
  | .fg => s.fg
  | .tick => s.tick

/-- Replace the commands presented on a driver port. -/
def State.setQueue (s : State) (p : Port) (q : List Command) : State :=
  match p with
  | .fg => { s with fg := q }
  | .tick => { s with tick := q }

/-- A command with nothing attached, read where no command is presented (log 15). -/
def Command.nothing : Command := { word := 0, src := [], dst := [], progress := none }

/-- The command that is running: the first one of the port whose step this is. -/
def State.cmd (s : State) : Command := (s.queue s.turn).headD .nothing

/-- Replace the command that is running, where there is one. -/
def State.setCmd (s : State) (c : Command) : State :=
  match s.queue s.turn with
  | [] => s
  | _ :: rest => s.setQueue s.turn (c :: rest)

/-- `inst >= N_INST`, unsigned (spec/43_byte_string_api.md R180, spec/42_update.md R157). -/
def State.badInst (s : State) (inst : Byte) : Bool := decide (s.config.nInst ≤ inst.toNat)

/-- The arguments of a command with a pointer fail validation: one condition (R180). -/
def State.badArgs (s : State) (pv : Bool) (inst : Byte) : Bool := s.badInst inst || !pv

/-- The record of an instance. Where there is none (log 15) the blank record is read; no command reaches that. -/
def State.uart (s : State) (i : Nat) : Uart := s.uarts.getD i (.blank ⟨0, 0, 0⟩)

/-- Replace the record of an instance; the other instances keep theirs (spec/10_state.md R25). -/
def State.setUart (s : State) (i : Nat) (u : Uart) : State := { s with uarts := s.uarts.set i u }

/-- Replace the send buffer of an instance. -/
def State.setTx (s : State) (i : Nat) (b : Buffer) : State := s.setUart i { s.uart i with tx := b }

/-- Replace the receive buffer of an instance. -/
def State.setRx (s : State) (i : Nat) (b : Buffer) : State := s.setUart i { s.uart i with rx := b }

/-- A successful receive push: the receive buffer and the shadow byte (spec/42_update.md R156, spec/10_state.md R29). -/
def State.pushRx (s : State) (i : Nat) (b : Buffer) (d : Byte) : State :=
  s.setUart i { s.uart i with rx := b, lastRx := d }

/-- The block is Ready: not every `ready[i]` is 0 (spec/10_state.md R41, spec/70_reset_and_hazards.md R251; DEDUCED,
log 16). -/
def State.isReady (s : State) : Bool := s.uarts.any (·.ready)

/-- The flag outputs `tx[i].full`, `tx[i].empty`, `rx[i].full`, `rx[i].empty` (spec/10_state.md R23). -/
def State.flagOutputs (s : State) (i : Nat) : Bool × Bool × Bool × Bool :=
  ((s.uart i).tx.full, (s.uart i).tx.empty, (s.uart i).rx.full, (s.uart i).rx.empty)

end Sys2Proof.Machine
end

