-- ==== Sys2Proof/Machine/Ops.lean ====
section
/-! DEFINITION. The shared operations: the register space and its reads and writes (spec/00_scope.md R13,
spec/20_memory.md R61 to R66), the error report, which is the block's one exception mechanism (spec/60_exceptions.md R210
to R215), output bytes and returns (spec/30_encoding.md R99), hardware reset (spec/70_reset_and_hazards.md R250), and the
presenting and fetching of commands. -/

namespace Sys2Proof.Machine

/-! ## The register space -/

/-- The byte the block last wrote to an address, if it has written one. -/
def Memory.read : Memory → Nat → Option Byte
  | [], _ => none
  | (x, v) :: rest, a => if a = x then some v else Memory.read rest a

/-- Write a byte, keeping the addresses strictly rising. -/
def Memory.write : Memory → Nat → Byte → Memory
  | [], a, b => [(a, b)]
  | (x, v) :: rest, a, b =>
    if a < x then (a, b) :: (x, v) :: rest
    else if a = x then (a, b) :: rest
    else (x, v) :: Memory.write rest a b

/-- The canonical form: addresses strictly rising. An unlisted address holds no value, so no entry can equal one. -/
abbrev Memory.wf (m : Memory) : Prop := m.Pairwise fun c d => c.1 < d.1

/-- `off(REG)` (spec/20_memory.md R61). -/
def Reg.offset (o : RegOffsets) : Reg → Nat
  | .data => o.data
  | .status => o.status
  | .en => o.en
  | .fmt => o.fmt
  | .baudL => o.baudL
  | .baudH => o.baudH

/-- `UART_BASE[i] + off(REG)` (R61, spec/42_update.md R161). -/
def regAddr (c : Config) (i : Nat) (r : Reg) : Nat := (c.params.getD i ⟨0, 0, 0⟩).base + r.offset c.offsets

/-- Append an event to the trace. -/
def State.emit (s : State) (e : Event) : State := { s with trace := s.trace ++ [e] }

/-- The byte the peripheral answers to the next register read: the next listed answer, or a free value. -/
def State.answer (s : State) : Byte := s.answers.headD (Config.drawnByte s.draws)

/-- The state after one answer has been taken. -/
def State.takeAnswer (s : State) : State :=
  match s.answers with
  | [] => { s with draws := s.draws + 1 }
  | _ :: rest => { s with answers := rest }

/-- `RegRead(i, REG)`, the state after it; the byte read is `s.answer` (spec/00_scope.md R13, spec/20_memory.md R66). -/
def State.regRead (s : State) (i : Nat) (r : Reg) : State := s.takeAnswer.emit (.regRead i r s.answer)

/-- `RegWrite(i, REG, v)` (spec/00_scope.md R13, spec/20_memory.md R61, R66). -/
def State.regWrite (s : State) (i : Nat) (r : Reg) (v : Byte) : State :=
  { s with mem := s.mem.write (regAddr s.config i r) v }.emit (.regWrite i r v)

/-! ## Error reports: entry and return -/

/-- The record a report carries (spec/60_exceptions.md R212). -/
def State.reportOf (s : State) (k : ErrorKind) (inst op : Byte) : Report :=
  { moduleId := s.config.moduleId, instanceId := inst, operationId := op, kind := k }

/-- `report <Kind>(inst, op)`: the record joins the trace, and nothing else changes (R214). Where `REPORTER_HALTS` holds
of the record the report never returns (R215). -/
def State.report (s : State) (k : ErrorKind) (inst op : Byte) : State :=
  { s with halted := if s.reportOf k inst op ∈ s.config.halts then some (s.reportOf k inst op) else s.halted }.emit
    (.report (s.reportOf k inst op))

/-- The return from a report: the command continues with its next line, with nothing to restore, unless the reporter
has not returned (R214, R215). -/
def State.resume (s : State) (next : State → State) : State :=
  match s.halted with
  | some _ => s
  | none => next s

/-! ## Output bytes and returns -/

/-- `OutWrite(k, b)`: position `k` of the destination of the running command (spec/20_memory.md R76). -/
def State.outWrite (s : State) (k : Nat) (b : Byte) : State :=
  (s.setCmd { s.cmd with dst := s.cmd.dst.set k b }).emit (.outWrite s.turn k b)

/-- `return v`: the result goes to the port that presented the command, which is done (spec/30_encoding.md R99). -/
def State.ret (s : State) (r : Result) : State :=
  (s.setQueue s.turn (s.queue s.turn).tail).emit (.ret s.turn r s.cmd.dst)

/-- The string command has moved `k` bytes and its next step is another iteration (spec/20_memory.md R69). -/
def State.advance (s : State) (k : Nat) : State := s.setCmd { s.cmd with progress := some k }

/-- A failed validation: exactly one `E_PARAM`, then the failure return (spec/43_byte_string_api.md R180). -/
def State.paramError (s : State) (inst op : Byte) (r : Result) : State :=
  (s.report .param inst op).resume fun s => s.ret r

/-- Run a command other than INIT: refused while the block is Uninitialized, before validation
(spec/70_reset_and_hazards.md R251). -/
def State.whenReady (s : State) (run : State → Host.Outcome State Fault Refusal) : Host.Outcome State Fault Refusal :=
  if s.isReady then run s else .refused .notInitialized

/-! ## The stand-alone buffer's port -/

/-- Replace the stand-alone buffer. -/
def State.setFifoBuf (s : State) (b : Buffer) : State := { s with fifo := { s.fifo with buf := b } }

/-- `OutWrite(0, b)` on the stand-alone buffer's port (spec/30_encoding.md R95). -/
def State.fifoOutWrite (s : State) (b : Byte) : State := { s with fifo := { s.fifo with out := b } }.emit (.fifoOut 0 b)

/-- `return v` on the stand-alone buffer's port. -/
def State.fifoRet (s : State) (r : Result) : State :=
  { s with fifo := { s.fifo with queue := s.fifo.queue.tail } }.emit (.fifoRet r)

/-! ## Hardware reset -/

/-- A string command of a driver port is between two of its steps. -/
def State.insideCommand (s : State) : Bool :=
  s.fg.head?.any (·.progress.isSome) || s.tick.head?.any (·.progress.isSome)

/-- Hardware reset (spec/70_reset_and_hazards.md R250): every `ready[i]` is 0 and every other field of the block holds
what it holds right after reset (log 1). It does not access the peripheral. DESIGN CHOICE (log 11): what was presented,
the register space and the trace stay. -/
def State.hardReset (s : State) : State :=
  { s with uarts := s.config.params.map Uart.blank, fifo := { s.fifo with buf := .blank s.config.fifoCap } }

/-! ## Presenting and fetching commands -/

/-- Present a command in front of a driver port's queue and give that port the next step. -/
def State.present (s : State) (p : Port) (c : Command) : State :=
  { s.setQueue p (c :: s.queue p) with sched := .port p :: s.sched }

/-- Present a word in front of the stand-alone buffer's port and give that port the next step. -/
def State.presentF (s : State) (w : FWord) : State :=
  { s with fifo := { s.fifo with queue := w :: s.fifo.queue }, sched := .fifo :: s.sched }

/-- The command of a table word: source bytes of zeros for every byte its operand can name, and as many destination
positions (at least the one a byte command uses). -/
def commandOf (w : Word) : Command where
  word     := w
  src      := List.replicate (operandField w).toNat 0
  dst      := List.replicate (max 1 (operandField w).toNat) 0
  progress := none

/-- A table word presented where the next step fetches its command (log 8). -/
def State.presentTableWord (s : State) (nbits w : Nat) : State :=
  match tableWord nbits w with
  | some (.d w) => s.present .fg (commandOf w)
  | some (.f w) => s.presentF w
  | none => s

/-- The agent whose step is next, and the state in which it takes it. DESIGN CHOICE (log 8): the interleaving is data of
the state. -/
def State.nextAgent (s : State) : Option (Agent × State) :=
  match s.sched with
  | [] => none
  | .port p :: rest => some (.port p, { s with sched := rest, turn := p })
  | a :: rest => some (a, { s with sched := rest })

/-- The word an agent's step decodes: the first one presented on its port, if there is one. -/
def State.fetch (s : State) : Agent → Option CmdWord
  | .port p => (s.queue p).head?.map fun c => .d c.word
  | .fifo => s.fifo.queue.head?.map .f
  | .hwReset => none

end Sys2Proof.Machine
end

