-- ==== Sys2Proof/Machine/ByteString.lean ====
section
/-! DEFINITION. The byte and string commands (spec/43_byte_string_api.md R180 to R188). A string command takes one step
for its early exits and validation, and one step for each iteration of its loop (spec/20_memory.md R69 (c)). -/

namespace Sys2Proof.Machine

/-- SEND_BYTE (R181). -/
def execSendByte (inst byte : Byte) (s : State) : Host.Outcome State Fault Refusal :=
  s.whenReady fun s =>
    if s.badInst inst then .next (s.paramError inst opSendByte (.ok false))
    else match (s.uart inst.toNat).tx.enq byte with
      | none => .next (s.ret (.ok false))
      | some tx => .next ((s.setTx inst.toNat tx).ret (.ok true))

/-- RECV_BYTE (R182). A destination without a position 0 is refused (spec/20_memory.md R76; DEDUCED, log 7). -/
def execRecvByte (pv : Bool) (inst : Byte) (s : State) : Host.Outcome State Fault Refusal :=
  s.whenReady fun s =>
    if s.badArgs pv inst then .next (s.paramError inst opRecvByte (.ok false))
    else if s.cmd.dst.length < 1 then .refused .badExtent
    else match (s.uart inst.toNat).rx.deq with
      | none => .next (s.ret (.ok false))
      | some (b, rx) => .next (((s.setRx inst.toNat rx).outWrite 0 b).ret (.ok true))

/-- PEEK_LAST_BYTE (R185). -/
def execPeekLastByte (pv : Bool) (inst : Byte) (s : State) : Host.Outcome State Fault Refusal :=
  s.whenReady fun s =>
    if s.badArgs pv inst then .next (s.paramError inst opPeekLastByte (.ok false))
    else if s.cmd.dst.length < 1 then .refused .badExtent
    else match (s.uart inst.toNat).rx.peekLast with
      | none => .next (s.ret (.ok false))
      | some b => .next ((s.outWrite 0 b).ret (.ok true))

/-- The count `k` as a result (spec/30_encoding.md R99). -/
def countOf (k : Nat) : Result := .count (BitVec.ofNat 16 k)

/-- The first step of a string command (R183, R184): zero length, then validation, then the extent of the caller's bytes
(spec/20_memory.md R76; DESIGN CHOICE, log 7), then the loop is entered with `k = 0`. -/
def stringEntry (pv : Bool) (inst : Byte) (len : Len) (op : Byte) (extent : Nat) (s : State) :
    Host.Outcome State Fault Refusal :=
  if len.toNat = 0 then .next (s.ret (countOf 0))
  else if s.badArgs pv inst then .next (s.paramError inst op (countOf 0))
  else if extent < len.toNat then .refused .badExtent
  else .next (s.advance 0)

/-- After the `k`-th byte has moved: the loop goes on, or the command returns (R183, R184). DEDUCED (log 9): the return
after the last byte is in the step of that byte. -/
def stringMoved (len : Len) (k : Nat) (s : State) : State :=
  if k + 1 < len.toNat then s.advance (k + 1) else s.ret (countOf (k + 1))

/-- One iteration of SEND_STRING with `k` bytes enqueued (R183). -/
def sendIteration (inst : Byte) (len : Len) (k : Nat) (s : State) : Host.Outcome State Fault Refusal :=
  if k < len.toNat then
    match s.cmd.src[k]? with
    | none => .refused .badExtent
    | some b =>
      match (s.uart inst.toNat).tx.enq b with
      | none => .next (s.ret (countOf k))
      | some tx => .next (stringMoved len k (s.setTx inst.toNat tx))
  else .next (s.ret (countOf k))

/-- SEND_STRING (R183). -/
def execSendString (pv : Bool) (inst : Byte) (len : Len) (s : State) : Host.Outcome State Fault Refusal :=
  s.whenReady fun s =>
    match s.cmd.progress with
    | none => stringEntry pv inst len opSendString s.cmd.src.length s
    | some k => sendIteration inst len k s

/-- One iteration of RECV_STRING with `k` bytes delivered (R184). -/
def recvIteration (inst : Byte) (len : Len) (k : Nat) (s : State) : Host.Outcome State Fault Refusal :=
  if k < len.toNat then
    match (s.uart inst.toNat).rx.deq with
    | none => .next (s.ret (countOf k))
    | some (b, rx) => .next (stringMoved len k ((s.setRx inst.toNat rx).outWrite k b))
  else .next (s.ret (countOf k))

/-- RECV_STRING (R184). -/
def execRecvString (pv : Bool) (inst : Byte) (len : Len) (s : State) : Host.Outcome State Fault Refusal :=
  s.whenReady fun s =>
    match s.cmd.progress with
    | none => stringEntry pv inst len opRecvString s.cmd.dst.length s
    | some k => recvIteration inst len k s

end Sys2Proof.Machine
end

