-- ==== Sys2Proof/Machine/CircularBuffer.lean ====
section
/-! DEFINITION. The four primitives on the port of the stand-alone buffer (spec/40_circular_buffer.md R121 to R124,
spec/30_encoding.md R95). -/

namespace Sys2Proof.Machine

/-- CB_CREATE (R121). -/
def execCbCreate (s : State) : Host.Outcome State Fault Refusal :=
  .next ((s.setFifoBuf s.fifo.buf.create).fifoRet .none)

/-- CB_ENQ (R122). -/
def execCbEnq (byte : Byte) (s : State) : Host.Outcome State Fault Refusal :=
  match s.fifo.buf.enq byte with
  | none => .next (s.fifoRet (.ok false))
  | some b => .next ((s.setFifoBuf b).fifoRet (.ok true))

/-- CB_DEQ (R123). -/
def execCbDeq (s : State) : Host.Outcome State Fault Refusal :=
  match s.fifo.buf.deq with
  | none => .next (s.fifoRet (.ok false))
  | some (v, b) => .next (((s.setFifoBuf b).fifoOutWrite v).fifoRet (.ok true))

/-- CB_PEEKLAST (R124). -/
def execCbPeekLast (s : State) : Host.Outcome State Fault Refusal :=
  match s.fifo.buf.peekLast with
  | none => .next (s.fifoRet (.ok false))
  | some v => .next ((s.fifoOutWrite v).fifoRet (.ok true))

end Sys2Proof.Machine
end

