-- ==== Sys2Proof/Machine/Init.lean ====
section
/-! DEFINITION. INIT (spec/41_init.md R140 to R145). -/

namespace Sys2Proof.Machine

/-- The instance a record populates (R140): both buffers created, the latches loaded, Ready. -/
def initUart (u : Uart) (r : CfgRecord) : Uart :=
  { u with tx := u.tx.create, rx := u.rx.create, baud := r.baudRate, stop := r.stopBits, par := r.parity, ready := true }

/-- The work of INIT for one record (R140, R142): the instance, then the four register writes. The command is one
atomic step, so the place of the `ready` write inside it cannot be seen. -/
def initRecord (s : State) (r : CfgRecord) : State :=
  let d := divisor s.config.fClk r.baudRate
  ((((s.setUart r.instanceId (initUart (s.uart r.instanceId) r)).regWrite r.instanceId .baudL (divisorLow d)).regWrite
    r.instanceId .baudH (divisorHigh d)).regWrite
    r.instanceId .fmt (fmtByte s.config.fmtLayout r.stopBits r.parity)).regWrite
    r.instanceId .en (enByte s.config.enLayout)

/-- INIT (R140). -/
def execInit (pv : Bool) (s : State) : Host.Outcome State Fault Refusal :=
  if pv then .next ((s.config.table.foldl initRecord s).ret .none)
  else .next (s.paramError 0 opInit .none)

end Sys2Proof.Machine
end

