-- ==== Sys2Proof/Machine/Update.lean ====
section
/-! DEFINITION. SEND_UPDATE and RECV_UPDATE, the polling state machine (spec/42_update.md R155 to R162). -/

namespace Sys2Proof.Machine

/-- SEND_UPDATE once a byte has been dequeued (R155): one status snapshot, then the byte goes to `DATA` or is lost. -/
def sendDequeued (s : State) (inst : Byte) (b : Byte) : State :=
  if txe s.config s.answer then ((s.regRead inst.toNat .status).regWrite inst.toNat .data b).ret .none
  else ((s.regRead inst.toNat .status).report .tbNempty inst opSendUpdate).resume fun s => s.ret .none

/-- SEND_UPDATE (R155, R157). -/
def execSendUpdate (inst : Byte) (s : State) : Host.Outcome State Fault Refusal :=
  s.whenReady fun s =>
    if s.badInst inst then .next (s.paramError inst opSendUpdate .none)
    else match (s.uart inst.toNat).tx.deq with
      | none => .next (s.ret .none)
      | some (b, tx) => .next (sendDequeued (s.setTx inst.toNat tx) inst b)

/-- One report if its flag is set (R156). -/
def reportIf (flag : Bool) (k : ErrorKind) (inst : Byte) (s : State) : State :=
  if flag then s.report k inst opRecvUpdate else s

/-- The three inspections of RECV_UPDATE, in order, on the snapshot `v` (R156, R158). -/
def lineReports (v : Byte) (inst : Byte) (s : State) : State :=
  ((reportIf (fe s.config v) .framing inst s).resume (reportIf (ovr s.config v) .overrun inst)).resume
    (reportIf (pe s.config v) .parity inst)

/-- The read of `DATA`, and the push of the byte if no error flag was set (R156). -/
def receiveData (err : Bool) (inst : Byte) (s : State) : State :=
  let d := s.answer
  let t := s.regRead inst.toNat .data
  if err then t.ret .none
  else match (t.uart inst.toNat).rx.enq d with
    | none => t.ret .none
    | some rx => (t.pushRx inst.toNat rx d).ret .none

/-- RECV_UPDATE on the status snapshot (R156). -/
def receiveSnapshot (s : State) (inst : Byte) : State :=
  let v := s.answer
  let t := s.regRead inst.toNat .status
  if rxc s.config v then (lineReports v inst t).resume (receiveData (lineError s.config v) inst)
  else t.ret .none

/-- RECV_UPDATE (R156, R157). -/
def execRecvUpdate (inst : Byte) (s : State) : Host.Outcome State Fault Refusal :=
  s.whenReady fun s =>
    if s.badInst inst then .next (s.paramError inst opRecvUpdate .none)
    else .next (receiveSnapshot s inst)

end Sys2Proof.Machine
end

