-- ==== Sys2Proof/Machine/Dispatch.lean ====
section
/-! DEFINITION. The dispatch: one arm per operation of spec/opcode_table.json. -/

namespace Sys2Proof.Machine

def exec (i : Instr) (s : State) : Host.Outcome State Fault Refusal :=
  match i with
  | .cbCreate => Sys2Proof.Machine.execCbCreate s
  | .cbEnq byte => Sys2Proof.Machine.execCbEnq byte s
  | .cbDeq => Sys2Proof.Machine.execCbDeq s
  | .cbPeekLast => Sys2Proof.Machine.execCbPeekLast s
  | .init pv => Sys2Proof.Machine.execInit pv s
  | .sendUpdate inst => Sys2Proof.Machine.execSendUpdate inst s
  | .recvUpdate inst => Sys2Proof.Machine.execRecvUpdate inst s
  | .sendByte inst byte => Sys2Proof.Machine.execSendByte inst byte s
  | .recvByte pv inst => Sys2Proof.Machine.execRecvByte pv inst s
  | .sendString pv inst len => Sys2Proof.Machine.execSendString pv inst len s
  | .recvString pv inst len => Sys2Proof.Machine.execRecvString pv inst len s
  | .peekLastByte pv inst => Sys2Proof.Machine.execPeekLastByte pv inst s

end Sys2Proof.Machine
end

