-- ==== Sys2Proof/Machine/Turn.lean ====
section
/-! DEFINITION. What the agent whose step is next does with it (spec/20_memory.md R68, R69): a port runs the command
presented on it. -/

namespace Sys2Proof.Machine

/-- Decode a fetched word and run it; an illegal word is refused with no effect (spec/30_encoding.md R96). -/
def runWord (w : CmdWord) (s : State) : Host.Outcome State Fault Refusal :=
  match decode w with
  | .error why => .refused (.illegalCommand why)
  | .ok i => exec i s

/-- The step of an agent: a port runs the command presented on it, and does nothing where none is; hardware reset acts
between commands only (spec/70_reset_and_hazards.md R250; log 11). DESIGN CHOICE (log 6): a port with nothing presented
takes an idle step. -/
def agentStep (a : Agent) (s : State) : Host.Outcome State Fault Refusal :=
  match a with
  | .hwReset => if s.insideCommand then .refused .resetInsideCommand else .next s.hardReset
  | a =>
    match s.fetch a with
    | none => .next s
    | some w => runWord w s

end Sys2Proof.Machine
end

