-- ==== Sys2Proof/Machine/Step.lean ====
section
/-! DEFINITION. One atomic step of the block (spec/20_memory.md R68, R69): the next agent of the schedule takes it. -/

namespace Sys2Proof.Machine

/-- One step. A malformed configuration has none (spec/41_init.md R144), a block whose reporter did not return is stuck
(spec/60_exceptions.md R215), and where the schedule names no agent nothing happens. DESIGN CHOICE: the configuration
is checked here (log 4), the stuck state is a fault (log 5), an empty schedule is an idle step (log 6). -/
def step (s : State) : Host.Outcome State Fault Refusal :=
  if s.config.wf then
    match s.halted with
    | some r => .fault (.reporterHalted r)
    | none =>
      match s.nextAgent with
      | none => .next s
      | some (a, t) => agentStep a t
  else .refused .malformedConfig

/-- `s` with an opcode-table word presented where the next step fetches its command: a format D word on the foreground
port with the payload it needs, a format F word on the stand-alone buffer's port. -/
def State.withFetchWord (s : State) (nbits w : Nat) : State := s.presentTableWord nbits w

end Sys2Proof.Machine
end

