-- ==== Sys2Proof/Safety.lean ====
section
/-! DEFINITION. What holds in every state of a run, in the terms the statements use: the buffer invariant (spec/10_state.md
R21), the instance invariants (R24, R25, R27, R29) and the register space (spec/41_init.md R142), gathered in
`State.Inv`. Nothing here rests on the values the model chose for reset (log 1): what the spec leaves without a value
before INIT is only spoken of once the block is Ready. -/

namespace Sys2Proof.Machine

/-- The buffer invariant (spec/10_state.md R21). -/
structure Buffer.WF (b : Buffer) : Prop where
  count_le : b.count ≤ b.cap
  head_lt  : b.head < b.cap
  tail_lt  : b.tail < b.cap
  tail_eq  : b.tail = (b.head + b.count) % b.cap

/-- Both buffers of an instance satisfy the buffer invariant, and the shadow byte is the byte behind the tail whenever
the receive buffer holds one (spec/10_state.md R21, R29). -/
structure Uart.WF (u : Uart) : Prop where
  tx     : u.tx.WF
  rx     : u.rx.WF
  shadow : u.rx.count ≠ 0 → u.lastRx = u.rx.st.getD u.rx.behindTail 0

/-- The storages of an instance have the configured capacities (spec/10_state.md R20, R24). -/
def Uart.fits (u : Uart) (p : InstParams) : Prop := u.tx.cap = p.capTx ∧ u.rx.cap = p.capRx

/-- The latches of an instance hold the values of its configuration record (spec/10_state.md R36). -/
def Uart.configured (u : Uart) (r : CfgRecord) : Prop :=
  u.baud = r.baudRate ∧ u.stop = r.stopBits ∧ u.par = r.parity

/-- The four control registers of an instance hold the bytes INIT writes (spec/41_init.md R142). -/
def State.programmed (s : State) (r : CfgRecord) : Prop :=
  s.mem.read (regAddr s.config r.instanceId .baudL) = some (divisorLow (divisor s.config.fClk r.baudRate)) ∧
  s.mem.read (regAddr s.config r.instanceId .baudH) = some (divisorHigh (divisor s.config.fClk r.baudRate)) ∧
  s.mem.read (regAddr s.config r.instanceId .fmt) = some (fmtByte s.config.fmtLayout r.stopBits r.parity) ∧
  s.mem.read (regAddr s.config r.instanceId .en) = some (enByte s.config.enLayout)

/-- The shape of a state: the configuration is admitted, there is one record per instance with storages of the
configured capacities, all ready bits are equal (spec/70_reset_and_hazards.md R251) and the register space is in
canonical form. -/
structure State.Shape (s : State) : Prop where
  config_wf : s.config.wf = true
  length    : s.uarts.length = s.config.nInst
  fits      : ∀ i < s.config.nInst, (s.uart i).fits (s.config.params.getD i ⟨0, 0, 0⟩)
  fifo_fits : s.fifo.buf.cap = s.config.fifoCap
  ready_eq  : ∀ i < s.config.nInst, (s.uart i).ready = s.isReady
  mem_wf    : s.mem.wf

/-- The invariant of a run. -/
structure State.Inv (s : State) : Prop extends s.Shape where
  uart_wf    : s.isReady = true → ∀ i < s.config.nInst, (s.uart i).WF
  configured : s.isReady = true → ∀ r ∈ s.config.table, (s.uart r.instanceId).configured r
  programmed : s.isReady = true → ∀ r ∈ s.config.table, s.programmed r

/-- The error reports in a trace, in order: the report trace (spec/60_exceptions.md R210). -/
def reportsOf (t : List Event) : List Report :=
  t.filterMap fun e => match e with
    | .report r => some r
    | _ => none

/-- The register accesses in a trace, in order (spec/20_memory.md R66). -/
def accessesOf (t : List Event) : List Event :=
  t.filter fun e => match e with
    | .regRead _ _ _ => true
    | .regWrite _ _ _ => true
    | _ => false

/-- What a step has added to the trace. -/
def newEvents (s t : State) : List Event := t.trace.drop s.trace.length

/-- The running command has returned `r` on the port whose turn it is, after the events `es`: it leaves the port's queue,
and the caller's destination is `dst`. -/
def State.returned (s : State) (es : List Event) (r : Result) (dst : List Byte) : State :=
  { s.setQueue s.turn (s.queue s.turn).tail with trace := s.trace ++ es ++ [.ret s.turn r dst] }

/-- The primitive presented on the stand-alone buffer's port has returned `r`, after the events `es`. -/
def State.fifoReturned (s : State) (es : List Event) (r : Result) : State :=
  { s with fifo := { s.fifo with queue := s.fifo.queue.tail }, trace := s.trace ++ es ++ [.fifoRet r] }

/-- The `E_PARAM` report of a command (spec/60_exceptions.md R212). -/
def State.paramReport (s : State) (inst op : Byte) : Report :=
  { moduleId := s.config.moduleId, instanceId := inst, operationId := op, kind := .param }

/-- The instance a driver command names (spec/30_encoding.md R93). -/
def instOf : Instr → Option Byte
  | .cbCreate => none
  | .cbEnq _ => none
  | .cbDeq => none
  | .cbPeekLast => none
  | .init _ => none
  | .sendUpdate inst => some inst
  | .recvUpdate inst => some inst
  | .sendByte inst _ => some inst
  | .recvByte _ inst => some inst
  | .sendString _ inst _ => some inst
  | .recvString _ inst _ => some inst
  | .peekLastByte _ inst => some inst

/-- A format D word is illegal (spec/30_encoding.md R96). -/
def illegalD (w : Word) : Prop :=
  8 ≤ (opcodeField w).toNat ∨ rsvField w ≠ 0 ∨
  ((opcodeField w).toNat ∈ [1, 2, 3] ∧ pvField w = true) ∨
  ((opcodeField w).toNat ∈ [0, 1, 2, 4, 7] ∧ operandField w ≠ 0) ∨
  ((opcodeField w).toNat = 0 ∧ instField w ≠ 0) ∨
  ((opcodeField w).toNat = 3 ∧ operandHigh w ≠ 0)

/-- A format F word is illegal (spec/30_encoding.md R96). -/
def illegalF (w : FWord) : Prop := (fopField w).toNat ≠ 1 ∧ fbyteField w ≠ 0

/-- What the reports of a command carry (spec/60_exceptions.md R212). -/
structure Origin where
  operationId : Byte
  instanceId  : Byte
  kinds       : List ErrorKind
deriving DecidableEq, Repr

/-- The rows of the table of causes, by command; a primitive never reports (spec/60_exceptions.md R212). -/
def reportOrigin : Instr → Option Origin
  | .cbCreate => none
  | .cbEnq _ => none
  | .cbDeq => none
  | .cbPeekLast => none
  | .init _ => some ⟨0, 0, [.param]⟩
  | .sendUpdate inst => some ⟨1, inst, [.param, .tbNempty]⟩
  | .recvUpdate inst => some ⟨2, inst, [.param, .framing, .overrun, .parity]⟩
  | .sendByte inst _ => some ⟨3, inst, [.param]⟩
  | .recvByte _ inst => some ⟨4, inst, [.param]⟩
  | .sendString _ inst _ => some ⟨5, inst, [.param]⟩
  | .recvString _ inst _ => some ⟨6, inst, [.param]⟩
  | .peekLastByte _ inst => some ⟨7, inst, [.param]⟩

/-- The addresses a command may write in the register space: the four control registers for INIT, `DATA` of the named
instance for SEND_UPDATE, none for any other (spec/42_update.md R161). -/
def mayWrite (c : Config) : Instr → Nat → Prop
  | .init _, a => ∃ r ∈ c.table, ∃ g ∈ [Reg.baudL, .baudH, .fmt, .en], a = regAddr c r.instanceId g
  | .sendUpdate inst, a => a = regAddr c inst.toNat .data
  | .recvUpdate _, _ => False
  | .sendByte _ _, _ => False
  | .recvByte _ _, _ => False
  | .sendString _ _ _, _ => False
  | .recvString _ _ _, _ => False
  | .peekLastByte _ _, _ => False
  | .cbCreate, _ => False
  | .cbEnq _, _ => False
  | .cbDeq, _ => False
  | .cbPeekLast, _ => False

/-- The producer's and the consumer's primitives, for sequences of them (spec/40_circular_buffer.md R126). -/
inductive BufOp where
  | enq (x : Byte)
  | deq
deriving DecidableEq, Repr

/-- The result of a sequence of primitives: the buffer, the bytes of the successful Enqueues and the bytes of the
successful Dequeues, each in order. -/
def Buffer.runOps : Buffer → List BufOp → Buffer × List Byte × List Byte
  | b, [] => (b, [], [])
  | b, .enq x :: ops =>
    match b.enq x with
    | none => Buffer.runOps b ops
    | some b' => ((Buffer.runOps b' ops).1, x :: (Buffer.runOps b' ops).2.1, (Buffer.runOps b' ops).2.2)
  | b, .deq :: ops =>
    match b.deq with
    | none => Buffer.runOps b ops
    | some (y, b') => ((Buffer.runOps b' ops).1, (Buffer.runOps b' ops).2.1, y :: (Buffer.runOps b' ops).2.2)

/-- The other driver port. -/
def Port.other : Port → Port
  | .fg => .tick
  | .tick => .fg

/-- An event with the driver ports exchanged. -/
def Event.swap : Event → Event
  | .regRead i r v => .regRead i r v
  | .regWrite i r v => .regWrite i r v
  | .report r => .report r
  | .outWrite p k b => .outWrite p.other k b
  | .ret p r dst => .ret p.other r dst
  | .fifoOut k b => .fifoOut k b
  | .fifoRet r => .fifoRet r

/-- A state with the driver ports exchanged: what was presented on one is presented on the other. -/
def State.swapPorts (s : State) : State :=
  { s with fg := s.tick, tick := s.fg, turn := s.turn.other, trace := s.trace.map Event.swap }

/-- The string commands of a port's queue are at an index below their length (spec/10_state.md R37, R39). -/
def Command.indexOk (c : Command) : Prop := ∀ k, c.progress = some k → k < (operandField c.word).toNat

end Sys2Proof.Machine
end

