-- ==== Sys2Proof/Certificates/Slice0/Obligations.lean ====
section
/-! DEFINITION. The statements for the provers. Each docstring names the rule of spec/ it formalises; where a statement
rests on a choice of the model, it names the log entry. -/

open Sys2Proof Sys2Proof.Machine

/-! ## Encoding -/

/-- R100: encoding is the inverse of decoding, for every operation with every operand at every value. -/
def Obligations.DecodeOfEncode : Prop := ∀ i : Instr, decode (encode i) = .ok i

/-- R100: a word that decodes is the word the encoder gives, so no bit of it is dropped. -/
def Obligations.EncodeOfDecode : Prop := ∀ (w : CmdWord) (i : Instr), decode w = .ok i → encode i = w

/-- R94: a format D word spells an operation exactly when `(w & mask) == match`. -/
def Obligations.DriverWordsSpelledByMaskAndMatch : Prop :=
  ∀ w : Word,
    ((∃ pv, decode (.d w) = .ok (.init pv)) ↔ w &&& 0xFEFFFFFF#32 = 0x00000000#32) ∧
    ((∃ inst, decode (.d w) = .ok (.sendUpdate inst)) ↔ w &&& 0xFF00FFFF#32 = 0x10000000#32) ∧
    ((∃ inst, decode (.d w) = .ok (.recvUpdate inst)) ↔ w &&& 0xFF00FFFF#32 = 0x20000000#32) ∧
    ((∃ inst byte, decode (.d w) = .ok (.sendByte inst byte)) ↔ w &&& 0xFF00FF00#32 = 0x30000000#32) ∧
    ((∃ pv inst, decode (.d w) = .ok (.recvByte pv inst)) ↔ w &&& 0xFE00FFFF#32 = 0x40000000#32) ∧
    ((∃ pv inst len, decode (.d w) = .ok (.sendString pv inst len)) ↔ w &&& 0xFE000000#32 = 0x50000000#32) ∧
    ((∃ pv inst len, decode (.d w) = .ok (.recvString pv inst len)) ↔ w &&& 0xFE000000#32 = 0x60000000#32) ∧
    ((∃ pv inst, decode (.d w) = .ok (.peekLastByte pv inst)) ↔ w &&& 0xFE00FFFF#32 = 0x70000000#32)

/-- R96: the decoder rejects exactly the illegal words of either format. -/
def Obligations.IllegalWordsRejected : Prop :=
  (∀ w : Word, (∃ why, decode (.d w) = .error why) ↔ illegalD w) ∧
  (∀ w : FWord, (∃ why, decode (.f w) = .error why) ↔ illegalF w)

/-- Words of spec/95_test_vectors.md, written out from R91 and R95, decode to the operations they stand for. -/
def Obligations.WrittenWordsDecode : Prop :=
  decode (.f 0b0000000000#10) = .ok .cbCreate ∧
  decode (.f 0b0110100101#10) = .ok (.cbEnq 0xA5) ∧
  decode (.f 0b1000000000#10) = .ok .cbDeq ∧
  decode (.f 0b1100000000#10) = .ok .cbPeekLast ∧
  decode (.d 0x01000000#32) = .ok (.init true) ∧
  decode (.d 0x10010000#32) = .ok (.sendUpdate 1) ∧
  decode (.d 0x20FF0000#32) = .ok (.recvUpdate 255) ∧
  decode (.d 0x30010041#32) = .ok (.sendByte 1 0x41) ∧
  decode (.d 0x41000000#32) = .ok (.recvByte true 0) ∧
  decode (.d 0x51000006#32) = .ok (.sendString true 0 6) ∧
  decode (.d 0x60090000#32) = .ok (.recvString false 9 0) ∧
  decode (.d 0x71030000#32) = .ok (.peekLastByte true 3)

/-! ## The step -/

/-- R68, R69: when it is an agent's turn and the word presented on its port decodes, the step is `exec` of the decoded
operation, in the state whose schedule has moved on and whose turn it is. -/
def Obligations.StepRunsTheDecodedCommand : Prop :=
  (∀ (s : State) (p : Port) (rest : List Agent) (c : Command) (q : List Command) (i : Instr),
    s.config.wf = true → s.halted = none → s.sched = .port p :: rest → s.queue p = c :: q →
    decode (.d c.word) = .ok i → step s = exec i { s with sched := rest, turn := p }) ∧
  (∀ (s : State) (rest : List Agent) (w : FWord) (q : List FWord) (i : Instr),
    s.config.wf = true → s.halted = none → s.sched = .fifo :: rest → s.fifo.queue = w :: q →
    decode (.f w) = .ok i → step s = exec i { s with sched := rest })

/-- R96: what makes a word illegal, and that the block takes no step on one: it is refused by name, on a driver port and
on the stand-alone buffer's port, in either driver state; and a word that is not illegal is not refused so. -/
def Obligations.IllegalWordRefused : Prop :=
  (∀ (s : State) (p : Port) (rest : List Agent) (c : Command) (q : List Command),
    s.config.wf = true → s.halted = none → s.sched = .port p :: rest → s.queue p = c :: q →
    (illegalD c.word ↔ ∃ why, step s = .refused (.illegalCommand why))) ∧
  (∀ (s : State) (rest : List Agent) (w : FWord) (q : List FWord),
    s.config.wf = true → s.halted = none → s.sched = .fifo :: rest → s.fifo.queue = w :: q →
    (illegalF w ↔ ∃ why, step s = .refused (.illegalCommand why)))

/-- The model's own idle steps (log 6): where the schedule names no agent, or a port on which nothing is presented,
nothing of the block changes. -/
def Obligations.IdleStepsChangeNothing : Prop :=
  ∀ s : State, s.config.wf = true → s.halted = none →
    (s.sched = [] → step s = .next s) ∧
    (∀ p rest, s.sched = .port p :: rest → s.queue p = [] → step s = .next { s with sched := rest, turn := p }) ∧
    (∀ rest, s.sched = .fifo :: rest → s.fifo.queue = [] → step s = .next { s with sched := rest })

/-- R250: a hardware reset between commands clears every ready bit, accesses no peripheral register and hands nothing to
the outside. That a reset is a step of the schedule, and that the commands presented, the answers and the trace stay, is
the model's choice (log 11). -/
def Obligations.HardwareResetClearsReady : Prop :=
  ∀ (s : State) (rest : List Agent), s.Shape → s.halted = none → s.sched = .hwReset :: rest → s.insideCommand = false →
    ∃ t, step s = .next t ∧ (∀ i, (t.uart i).ready = false) ∧ t.isReady = false ∧ t.config = s.config ∧ t.mem = s.mem ∧
      t.trace = s.trace ∧ t.answers = s.answers ∧ t.draws = s.draws ∧ t.fg = s.fg ∧ t.tick = s.tick ∧
      t.fifo.queue = s.fifo.queue ∧ t.halted = none

/-- R251: while the block is Uninitialized every driver command but INIT is refused by name, before validation. -/
def Obligations.CommandsBeforeInitRefused : Prop :=
  ∀ (i : Instr) (s : State), s.isReady = false → i.format = .d → (∀ pv, i ≠ .init pv) →
    exec i s = .refused .notInitialized

/-- R41, R250: right after reset the block is Uninitialized. -/
def Obligations.ResetIsUninitialized : Prop :=
  (∀ u ∈ State.reset.uarts, u.ready = false) ∧ State.reset.uarts.length = State.reset.config.nInst ∧
    State.reset.isReady = false

/-! ## The circular buffer -/

/-- R121: Create empties the buffer, does not write the storage and cannot fail; afterwards the buffer is empty and not
full. -/
def Obligations.CreateEmptiesTheBuffer : Prop :=
  decode (.f 0x000#10) = .ok .cbCreate ∧
  ∀ s : State,
    let b : Buffer := { s.fifo.buf with head := 0, tail := 0, count := 0 }
    exec .cbCreate s = .next { s.fifoReturned [] .none with fifo := { s.fifo with buf := b, queue := s.fifo.queue.tail } } ∧
    b.empty = true ∧ (1 ≤ s.fifo.buf.cap → b.full = false)

/-- R122: Enqueue on a full buffer returns false and leaves the buffer unchanged; otherwise it writes the byte at the
tail, advances the tail modulo the capacity, increments the count and returns true. -/
def Obligations.EnqueueWritesAtTheTail : Prop :=
  (∀ x : Byte, decode (.f (0x100#10 ||| x.setWidth 10)) = .ok (.cbEnq x)) ∧
  ∀ (s : State) (x : Byte), s.fifo.buf.WF →
    let b := s.fifo.buf
    let b' : Buffer := { b with st := b.st.set b.tail x, tail := (b.tail + 1) % b.cap, count := b.count + 1 }
    (b.count = b.cap → exec (.cbEnq x) s = .next (s.fifoReturned [] (.ok false))) ∧
    (b.count ≠ b.cap →
      exec (.cbEnq x) s =
        .next { s.fifoReturned [] (.ok true) with fifo := { s.fifo with buf := b', queue := s.fifo.queue.tail } } ∧
      b'.st[b.tail]? = some x ∧ b'.empty = false ∧ (b'.full = true ↔ b.count + 1 = b.cap))

/-- R123: Dequeue on an empty buffer returns false and leaves the output location unchanged; otherwise it reads from
the head, advances the head modulo the capacity, decrements the count, writes the byte to the output location and
returns true. -/
def Obligations.DequeueReadsFromTheHead : Prop :=
  decode (.f 0x200#10) = .ok .cbDeq ∧
  ∀ (s : State), s.fifo.buf.WF →
    let b := s.fifo.buf
    let b' : Buffer := { b with head := (b.head + 1) % b.cap, count := b.count - 1 }
    (b.count = 0 → exec .cbDeq s = .next (s.fifoReturned [] (.ok false))) ∧
    (b.count ≠ 0 → ∃ x, b.st[b.head]? = some x ∧
      exec .cbDeq s = .next { s.fifoReturned [.fifoOut 0 x] (.ok true) with
        fifo := { buf := b', queue := s.fifo.queue.tail, out := x } } ∧
      b'.full = false ∧ (b'.empty = true ↔ b.count = 1))

/-- R124: PeekLast on an empty buffer returns false; otherwise it returns the byte immediately behind the tail without
removing it. -/
def Obligations.PeekLastReadsBehindTheTail : Prop :=
  decode (.f 0x300#10) = .ok .cbPeekLast ∧
  ∀ (s : State), s.fifo.buf.WF →
    let b := s.fifo.buf
    (b.count = 0 → exec .cbPeekLast s = .next (s.fifoReturned [] (.ok false))) ∧
    (b.count ≠ 0 → ∃ x, b.st[if b.tail > 0 then b.tail - 1 else b.cap - 1]? = some x ∧
      exec .cbPeekLast s = .next { s.fifoReturned [.fifoOut 0 x] (.ok true) with
        fifo := { buf := b, queue := s.fifo.queue.tail, out := x } })

/-- R125: no division is needed for the indices: they advance by one, or wrap to 0 at the capacity; the count changes by
exactly one and stays in `0 .. cap`; the index behind the tail is the tail less one modulo the capacity. -/
def Obligations.IndicesAdvanceByOneOrWrap : Prop :=
  ∀ (b b' : Buffer) (x : Byte), b.WF →
    (b.enq x = some b' → b'.tail = (if b.tail + 1 < b.cap then b.tail + 1 else 0) ∧ b'.count = b.count + 1 ∧
      b'.count ≤ b'.cap ∧ b'.cap = b.cap ∧ b'.head = b.head) ∧
    (b.deq = some (x, b') → b'.head = (if b.head + 1 < b.cap then b.head + 1 else 0) ∧ b'.count + 1 = b.count ∧
      b'.cap = b.cap ∧ b'.tail = b.tail ∧ b'.st = b.st) ∧
    b.behindTail = (if b.tail > 0 then b.tail - 1 else b.cap - 1)

/-- R21, R23, R122 to R124: seen through its stored bytes, oldest first, the buffer is a queue of at most `cap` bytes. -/
def Obligations.BufferIsABoundedQueue : Prop :=
  ∀ (b : Buffer) (x : Byte), b.WF →
    b.create.contents = [] ∧ b.contents.length = b.count ∧ (b.full && b.empty) = false ∧
    (b.full = true → b.enq x = none) ∧
    (b.full = false → ∃ b', b.enq x = some b' ∧ b'.contents = b.contents ++ [x]) ∧
    (∀ y rest, b.contents = y :: rest → ∃ b', b.deq = some (y, b') ∧ b'.contents = rest) ∧
    (b.contents = [] → b.deq = none) ∧
    b.peekLast = b.contents.getLast?

/-- R126: the FIFO law. From Create, for every sequence of primitives: the bytes dequeued are a prefix of the bytes
enqueued, in order; the bytes outstanding number `count`; an Enqueue succeeds exactly when fewer than `cap` bytes are
outstanding and a Dequeue exactly when at least one is; and enqueuing `cap` bytes and then dequeuing `cap` times gives
the sequence back. -/
def Obligations.FifoLaw : Prop :=
  ∀ (b : Buffer), 1 ≤ b.cap →
    (∀ ops : List BufOp,
      let r := b.create.runOps ops
      (∃ rest, r.2.1 = r.2.2 ++ rest ∧ rest.length = r.1.count) ∧
      (∀ x, (r.1.enq x).isSome = decide (r.2.1.length - r.2.2.length < b.cap)) ∧
      (r.1.deq.isSome = decide (r.2.2.length < r.2.1.length))) ∧
    (∀ xs : List Byte, xs.length = b.cap →
      (b.create.runOps (xs.map BufOp.enq ++ List.replicate b.cap .deq)).2 = (xs, xs))

/-- R21: the stand-alone buffer keeps the buffer invariant in every step. (A hardware reset leaves it as right after
reset, log 1.) -/
def Obligations.StandAloneBufferInvariantKept : Prop :=
  ∀ s t : State, s.fifo.buf.WF → step s = .next t → t.fifo.buf.WF

/-- R23: the four flag outputs of every instance of a Ready block, in terms of the counts and the configured capacities; a
buffer is never both full and empty. -/
def Obligations.FlagOutputsFollowTheCounts : Prop :=
  ∀ (s : State) (i : Nat) (p : InstParams), s.Inv → s.isReady = true → s.config.params[i]? = some p →
    ∃ txFull txEmpty rxFull rxEmpty, s.flagOutputs i = (txFull, txEmpty, rxFull, rxEmpty) ∧
      (txFull = true ↔ (s.uart i).tx.count = p.capTx) ∧ (txEmpty = true ↔ (s.uart i).tx.count = 0) ∧
      (rxFull = true ↔ (s.uart i).rx.count = p.capRx) ∧ (rxEmpty = true ↔ (s.uart i).rx.count = 0) ∧
      (txFull && txEmpty) = false ∧ (rxFull && rxEmpty) = false

/-! ## INIT -/

/-- R140, R142: INIT. With the table present it completes in either driver state: both buffers of every instance are
re-created with their storage kept, the latches hold the record's values, the shadow byte is unchanged, every instance
is Ready, and the register accesses are exactly four writes for each record, in table order, after which the four control
registers of every instance hold the bytes written. With the table absent it makes one report and nothing else. With
the default layouts the byte of `EN` is `0x03` and the six frame-format bytes are those of R142's table. -/
def Obligations.InitPopulatesEveryInstance : Prop :=
  decode (.d 0x01000000#32) = .ok (.init true) ∧ decode (.d 0x00000000#32) = .ok (.init false) ∧
  (∀ s : State, s.Shape → ∃ t, exec (.init true) s = .next t ∧ t.isReady = true ∧
    (∀ i < s.config.nInst, ∃ r ∈ s.config.table, r.instanceId = i ∧
      t.uart i = { s.uart i with
        tx := { (s.uart i).tx with head := 0, tail := 0, count := 0 }
        rx := { (s.uart i).rx with head := 0, tail := 0, count := 0 }
        baud := r.baudRate, stop := r.stopBits, par := r.parity, ready := true }) ∧
    t.trace = s.trace ++ (s.config.table.flatMap fun r =>
      [.regWrite r.instanceId .baudL ((divisor s.config.fClk r.baudRate).extractLsb' 0 8),
       .regWrite r.instanceId .baudH ((divisor s.config.fClk r.baudRate).extractLsb' 8 8),
       .regWrite r.instanceId .fmt (fmtByte s.config.fmtLayout r.stopBits r.parity),
       .regWrite r.instanceId .en (enByte s.config.enLayout)]) ++ [.ret s.turn .none s.cmd.dst] ∧
    ∀ r ∈ s.config.table, t.programmed r) ∧
  (∀ s : State, s.halted = none → s.paramReport 0 0 ∉ s.config.halts →
    exec (.init false) s = .next (s.returned [.report (s.paramReport 0 0)] .none s.cmd.dst)) ∧
  (enByte .standard = 0x03 ∧
    fmtByte .standard .one .none = 0x80 ∧ fmtByte .standard .one .even = 0x81 ∧ fmtByte .standard .one .odd = 0x82 ∧
    fmtByte .standard .two .none = 0x84 ∧ fmtByte .standard .two .even = 0x85 ∧ fmtByte .standard .two .odd = 0x86)

/-- R34, R35, R10, R61: at whatever bit positions an admitted configuration names, the byte of `EN` has exactly `RXEN` and
`TXEN` set, and the byte of `FMT` holds the codes of `PAR` and `STOP` and `CHSZ = 8` in their fields and zero in the
remaining bit; and no two registers, of one instance or of two, share an address. -/
def Obligations.ControlBytesHoldTheirFields : Prop :=
  ∀ c : Config, c.wf = true →
    (∀ k : Fin 8, (enByte c.enLayout).getLsbD k.val = (k == c.enLayout.rxen || k == c.enLayout.txen)) ∧
    (∀ (stop : StopBits) (par : Parity),
      let b := fmtByte c.fmtLayout stop par
      b.extractLsb' c.fmtLayout.par.val 2 = (match par with | .none => 0 | .even => 1 | .odd => 2) ∧
      b.getLsbD c.fmtLayout.stop.val = (match stop with | .one => false | .two => true) ∧
      b.extractLsb' c.fmtLayout.chsz.val 4 = 8 ∧
      ∀ k, k ∉ c.fmtLayout.bits → b.getLsbD k = false) ∧
    (∀ i < c.nInst, ∀ j < c.nInst, ∀ r q : Reg, regAddr c i r = regAddr c j q → i = j ∧ r = q)

/-- R140, R145: the frame of INIT with the table present: it changes no parameter, no answer, no stand-alone buffer, no
other command, and no register-space byte outside the four control registers of the instances. -/
def Obligations.InitFrame : Prop :=
  ∀ s : State, ∃ t, exec (.init true) s = .next t ∧
    t.config = s.config ∧ t.uarts.length = s.uarts.length ∧ t.turn = s.turn ∧ t.sched = s.sched ∧
    t.answers = s.answers ∧ t.draws = s.draws ∧ t.halted = s.halted ∧ t.fifo = s.fifo ∧
    t.queue s.turn = (s.queue s.turn).tail ∧ t.queue s.turn.other = s.queue s.turn.other ∧
    ∀ a, ¬ mayWrite s.config (.init true) a → t.mem.read a = s.mem.read a

/-- R141: for an admitted configuration the two bytes written are exactly `floor(F_CLK / (16 * baud)) - 1`, and the
subtraction does not go below zero; a configuration whose divisor is out of range is refused. That
the refusal is made by every step is the model's choice (log 4): the spec refuses the configuration when the model is
built. -/
def Obligations.DivisorBytesAreExact : Prop :=
  (∀ (c : Config) (r : CfgRecord), c.wf = true → r ∈ c.table →
    1 ≤ c.fClk / (16 * r.baudRate.toNat) ∧
    (divisor c.fClk r.baudRate).toNat = c.fClk / (16 * r.baudRate.toNat) - 1 ∧
    (divisorHigh (divisor c.fClk r.baudRate)).toNat * 256 + (divisorLow (divisor c.fClk r.baudRate)).toNat =
      c.fClk / (16 * r.baudRate.toNat) - 1) ∧
  (∀ (s : State), ∀ r ∈ s.config.table,
    ¬ (16 * r.baudRate.toNat ≤ s.config.fClk ∧ s.config.fClk / (16 * r.baudRate.toNat) ≤ 65536) →
    step s = .refused .malformedConfig)

/-- R144: a configuration that fails a condition of the table is refused, whatever is presented; the block never reports
its contents. That the refusal is made by every step is the model's choice (log 4): the spec checks the table once, when
the model is built, and never at run time. -/
def Obligations.MalformedTableRefused : Prop :=
  ∀ s : State,
    (s.config.table.length ≠ s.config.nInst ∨ ¬ (s.config.table.map (·.instanceId)).Nodup ∨
      (∃ r ∈ s.config.table, s.config.nInst ≤ r.instanceId) ∨ (∃ r ∈ s.config.table, r.baudRate.toNat < 1) ∨
      (∃ r ∈ s.config.table, ¬ (0 ≤ divisorExact s.config.fClk r.baudRate.toNat ∧
        divisorExact s.config.fClk r.baudRate.toNat ≤ 0xFFFF))) →
    step s = .refused .malformedConfig

/-! ## SEND_UPDATE and RECV_UPDATE -/

/-- R157: an update command on an instance that does not exist makes exactly one report and does nothing else. -/
def Obligations.UpdatesValidateTheInstance : Prop :=
  ∀ (s : State) (inst : Byte), s.isReady = true → s.halted = none → s.config.nInst ≤ inst.toNat →
    (s.paramReport inst 1 ∉ s.config.halts →
      exec (.sendUpdate inst) s = .next (s.returned [.report (s.paramReport inst 1)] .none s.cmd.dst)) ∧
    (s.paramReport inst 2 ∉ s.config.halts →
      exec (.recvUpdate inst) s = .next (s.returned [.report (s.paramReport inst 2)] .none s.cmd.dst))

/-- R155: the four cases of SEND_UPDATE. An instance that does not exist is reported; on an empty send buffer the command
is a no-op; otherwise it removes the oldest byte and reads `STATUS` once, and with `TXE` set writes the byte to `DATA`,
with `TXE` clear reports `E_TB_NEMPTY`, and the byte is lost. -/
def Obligations.SendUpdateWritesOrLosesTheByte : Prop :=
  ∀ (s : State) (inst : Byte), s.isReady = true → s.halted = none →
    encode (.sendUpdate inst) = .d (0x10000000#32 ||| inst.setWidth 32 <<< 16) ∧
    (s.config.nInst ≤ inst.toNat → s.paramReport inst 1 ∉ s.config.halts →
      exec (.sendUpdate inst) s = .next (s.returned [.report (s.paramReport inst 1)] .none s.cmd.dst)) ∧
    (inst.toNat < s.config.nInst → (s.uart inst.toNat).tx.count = 0 →
      exec (.sendUpdate inst) s = .next (s.returned [] .none s.cmd.dst)) ∧
    (s.Inv → inst.toNat < s.config.nInst → (s.uart inst.toNat).tx.count ≠ 0 →
      let b := (s.uart inst.toNat).tx
      let t := s.takeAnswer.setTx inst.toNat { b with head := (b.head + 1) % b.cap, count := b.count - 1 }
      let lost : Report := { moduleId := s.config.moduleId, instanceId := inst, operationId := 1, kind := .tbNempty }
      ∃ x, b.st[b.head]? = some x ∧
        (s.answer.getLsbD s.config.statusBits.txe.val = true →
          exec (.sendUpdate inst) s =
            .next ({ t with mem := s.mem.write (regAddr s.config inst.toNat .data) x }.returned
              [.regRead inst.toNat .status s.answer, .regWrite inst.toNat .data x] .none s.cmd.dst)) ∧
        (s.answer.getLsbD s.config.statusBits.txe.val = false → lost ∉ s.config.halts →
          exec (.sendUpdate inst) s =
            .next (t.returned [.regRead inst.toNat .status s.answer, .report lost] .none s.cmd.dst)))

/-- R156, R158: the cases of RECV_UPDATE. An instance that does not exist is reported; with `RXC` clear the command is a
no-op whatever the error flags are; with `RXC` and error flags set it makes one report for each set flag, in the order
framing, overrun, parity, then reads `DATA` once and discards the byte; with no error flag it reads `DATA` once and pushes
the byte to the receive buffer and the shadow, and a full receive buffer drops it with no report. -/
def Obligations.RecvUpdateDecodesTheSnapshot : Prop :=
  ∀ (s : State) (inst : Byte), s.isReady = true → s.halted = none →
    let b := (s.uart inst.toNat).rx
    let d := s.takeAnswer.answer
    let t := s.takeAnswer.takeAnswer
    let flag : Fin 8 → Bool := fun k => s.answer.getLsbD k.val
    let bits := s.config.statusBits
    let rep : ErrorKind → Report :=
      fun k => { moduleId := s.config.moduleId, instanceId := inst, operationId := 2, kind := k }
    let es := [.regRead inst.toNat .status s.answer, .regRead inst.toNat .data d]
    encode (.recvUpdate inst) = .d (0x20000000#32 ||| inst.setWidth 32 <<< 16) ∧
    (s.config.nInst ≤ inst.toNat → rep .param ∉ s.config.halts →
      exec (.recvUpdate inst) s = .next (s.returned [.report (rep .param)] .none s.cmd.dst)) ∧
    (inst.toNat < s.config.nInst → flag bits.rxc = false →
      exec (.recvUpdate inst) s =
        .next (s.takeAnswer.returned [.regRead inst.toNat .status s.answer] .none s.cmd.dst)) ∧
    (inst.toNat < s.config.nInst → flag bits.rxc = true →
      (flag bits.fe || flag bits.ovr || flag bits.pe) = true → (∀ k, rep k ∉ s.config.halts) →
      exec (.recvUpdate inst) s = .next (t.returned
        ([.regRead inst.toNat .status s.answer] ++ (if flag bits.fe then [.report (rep .framing)] else []) ++
          (if flag bits.ovr then [.report (rep .overrun)] else []) ++
          (if flag bits.pe then [.report (rep .parity)] else []) ++ [.regRead inst.toNat .data d]) .none s.cmd.dst)) ∧
    (s.Inv → inst.toNat < s.config.nInst → flag bits.rxc = true → flag bits.fe = false → flag bits.ovr = false →
      flag bits.pe = false →
      (b.count = b.cap → exec (.recvUpdate inst) s = .next (t.returned es .none s.cmd.dst)) ∧
      (b.count ≠ b.cap →
        exec (.recvUpdate inst) s = .next ((t.setUart inst.toNat { s.uart inst.toNat with
          rx := { b with st := b.st.set b.tail d, tail := (b.tail + 1) % b.cap, count := b.count + 1 }
          lastRx := d }).returned es .none s.cmd.dst)))

/-- R159: what an update command does to its buffer and to the outside depends only on the instance it names, that buffer
and the bytes it reads: the status byte, and for RECV_UPDATE the data byte. Whatever else differs, both runs complete,
with the same change of the buffer, the same register accesses and the same reports. -/
def Obligations.UpdatesDependOnTheSnapshotOnly : Prop :=
  ∀ (inst : Byte) (s₁ s₂ : State), s₁.Shape → s₂.Shape → s₁.config = s₂.config →
    s₁.isReady = true → s₂.isReady = true → s₁.halted = none → s₂.halted = none → s₁.answer = s₂.answer →
    ((s₁.uart inst.toNat).tx = (s₂.uart inst.toNat).tx →
      ∃ t₁ t₂, exec (.sendUpdate inst) s₁ = .next t₁ ∧ exec (.sendUpdate inst) s₂ = .next t₂ ∧
        (t₁.uart inst.toNat).tx = (t₂.uart inst.toNat).tx ∧
        accessesOf (newEvents s₁ t₁) = accessesOf (newEvents s₂ t₂) ∧
        reportsOf (newEvents s₁ t₁) = reportsOf (newEvents s₂ t₂)) ∧
    ((s₁.uart inst.toNat).rx = (s₂.uart inst.toNat).rx → s₁.takeAnswer.answer = s₂.takeAnswer.answer →
      ∃ t₁ t₂, exec (.recvUpdate inst) s₁ = .next t₁ ∧ exec (.recvUpdate inst) s₂ = .next t₂ ∧
        (t₁.uart inst.toNat).rx = (t₂.uart inst.toNat).rx ∧
        accessesOf (newEvents s₁ t₁) = accessesOf (newEvents s₂ t₂) ∧
        reportsOf (newEvents s₁ t₁) = reportsOf (newEvents s₂ t₂))

/-! ## Byte and string commands -/

/-- R181: SEND_BYTE reports an instance that does not exist and returns false; otherwise it enqueues into the send buffer
and returns the enqueue result; a full buffer is not an error. -/
def Obligations.SendByteEnqueues : Prop :=
  ∀ (s : State) (inst byte : Byte), s.isReady = true →
    let b := (s.uart inst.toNat).tx
    encode (.sendByte inst byte) = .d (0x30000000#32 ||| inst.setWidth 32 <<< 16 ||| byte.setWidth 32) ∧
    (s.halted = none → s.config.nInst ≤ inst.toNat → s.paramReport inst 3 ∉ s.config.halts →
      exec (.sendByte inst byte) s =
        .next (s.returned [.report (s.paramReport inst 3)] (.ok false) s.cmd.dst)) ∧
    (s.Inv → inst.toNat < s.config.nInst → b.count = b.cap →
      exec (.sendByte inst byte) s = .next (s.returned [] (.ok false) s.cmd.dst)) ∧
    (s.Inv → inst.toNat < s.config.nInst → b.count ≠ b.cap → exec (.sendByte inst byte) s =
      .next ((s.setTx inst.toNat { b with
        st := b.st.set b.tail byte, tail := (b.tail + 1) % b.cap, count := b.count + 1 }).returned
          [] (.ok true) s.cmd.dst))

/-- R182: RECV_BYTE makes exactly one report for invalid arguments, however many, and returns false; otherwise it dequeues
the oldest byte of the receive buffer into the caller's position 0; an empty buffer is not an error and leaves the
destination unchanged. -/
def Obligations.RecvByteDequeues : Prop :=
  ∀ (s : State) (pv : Bool) (inst : Byte), s.isReady = true →
    let b := (s.uart inst.toNat).rx
    encode (.recvByte pv inst) = .d (0x40000000#32 ||| (BitVec.ofBool pv).setWidth 32 <<< 24 ||| inst.setWidth 32 <<< 16) ∧
    (s.halted = none → (s.config.nInst ≤ inst.toNat ∨ pv = false) → s.paramReport inst 4 ∉ s.config.halts →
      exec (.recvByte pv inst) s = .next (s.returned [.report (s.paramReport inst 4)] (.ok false) s.cmd.dst)) ∧
    (s.Inv → inst.toNat < s.config.nInst → 1 ≤ s.cmd.dst.length →
      (b.count = 0 → exec (.recvByte true inst) s = .next (s.returned [] (.ok false) s.cmd.dst)) ∧
      (b.count ≠ 0 → ∃ x, b.st[b.head]? = some x ∧ exec (.recvByte true inst) s =
        .next ((s.setRx inst.toNat { b with head := (b.head + 1) % b.cap, count := b.count - 1 }).returned
          [.outWrite s.turn 0 x] (.ok true) (s.cmd.dst.set 0 x))))

/-- R185: PEEK_LAST_BYTE makes exactly one report for invalid arguments and returns false; otherwise it delivers the
newest byte of the receive buffer without consuming it and changes no block state; an empty buffer gives false, the shadow
byte is not consulted. -/
def Obligations.PeekLastByteDeliversTheNewest : Prop :=
  ∀ (s : State) (pv : Bool) (inst : Byte), s.isReady = true →
    let b := (s.uart inst.toNat).rx
    encode (.peekLastByte pv inst) =
      .d (0x70000000#32 ||| (BitVec.ofBool pv).setWidth 32 <<< 24 ||| inst.setWidth 32 <<< 16) ∧
    (s.halted = none → (s.config.nInst ≤ inst.toNat ∨ pv = false) → s.paramReport inst 7 ∉ s.config.halts →
      exec (.peekLastByte pv inst) s = .next (s.returned [.report (s.paramReport inst 7)] (.ok false) s.cmd.dst)) ∧
    (s.Inv → inst.toNat < s.config.nInst → 1 ≤ s.cmd.dst.length →
      (b.count = 0 → exec (.peekLastByte true inst) s = .next (s.returned [] (.ok false) s.cmd.dst)) ∧
      (b.count ≠ 0 → ∃ x, b.st[if b.tail > 0 then b.tail - 1 else b.cap - 1]? = some x ∧
        exec (.peekLastByte true inst) s =
          .next (s.returned [.outWrite s.turn 0 x] (.ok true) (s.cmd.dst.set 0 x))))

/-- R76, U4: a command with a valid pointer and too few source bytes or destination positions is refused by name, once
its arguments have passed validation (log 7). -/
def Obligations.ShortExtentsRefused : Prop :=
  ∀ (s : State) (inst : Byte) (len : Len), s.isReady = true → inst.toNat < s.config.nInst → s.cmd.progress = none →
    (s.cmd.dst.length < 1 → exec (.recvByte true inst) s = .refused .badExtent ∧
      exec (.peekLastByte true inst) s = .refused .badExtent) ∧
    (s.cmd.src.length < len.toNat → exec (.sendString true inst len) s = .refused .badExtent) ∧
    (s.cmd.dst.length < len.toNat → exec (.recvString true inst len) s = .refused .badExtent)

/-- R183: the steps of SEND_STRING. Zero length returns 0 before validation, with no report; invalid arguments make
exactly one report and return 0; otherwise the loop is entered with `k = 0`, nothing else changing. An iteration with `k`
bytes enqueued returns `k` on a full buffer; otherwise `Src[k]` is enqueued and the loop goes on, or the command returns
`length` after its last byte. -/
def Obligations.SendStringSteps : Prop :=
  ∀ (s : State) (pv : Bool) (inst : Byte) (len : Len), s.isReady = true →
    encode (.sendString pv inst len) =
      .d (0x50000000#32 ||| (BitVec.ofBool pv).setWidth 32 <<< 24 ||| inst.setWidth 32 <<< 16 ||| len.setWidth 32) ∧
    (s.cmd.progress = none → len = 0 →
      exec (.sendString pv inst len) s = .next (s.returned [] (.count 0) s.cmd.dst)) ∧
    (s.cmd.progress = none → len ≠ 0 → (s.config.nInst ≤ inst.toNat ∨ pv = false) → s.halted = none →
      s.paramReport inst 5 ∉ s.config.halts →
      exec (.sendString pv inst len) s =
        .next (s.returned [.report (s.paramReport inst 5)] (.count 0) s.cmd.dst)) ∧
    (s.cmd.progress = none → len ≠ 0 → inst.toNat < s.config.nInst → len.toNat ≤ s.cmd.src.length →
      exec (.sendString true inst len) s = .next (s.setCmd { s.cmd with progress := some 0 })) ∧
    (∀ k x, s.Inv → inst.toNat < s.config.nInst → s.cmd.progress = some k → k < len.toNat → s.cmd.src[k]? = some x →
      let b := (s.uart inst.toNat).tx
      let t := s.setTx inst.toNat { b with
        st := b.st.set b.tail x, tail := (b.tail + 1) % b.cap, count := b.count + 1 }
      (b.count = b.cap →
        exec (.sendString pv inst len) s = .next (s.returned [] (.count (BitVec.ofNat 16 k)) s.cmd.dst)) ∧
      (b.count ≠ b.cap → k + 1 < len.toNat →
        exec (.sendString pv inst len) s = .next (t.setCmd { s.cmd with progress := some (k + 1) })) ∧
      (b.count ≠ b.cap → k + 1 = len.toNat →
        exec (.sendString pv inst len) s = .next (t.returned [] (.count len) s.cmd.dst)))

/-- R184: the steps of RECV_STRING. Zero length returns 0 before validation, with no report; invalid arguments make
exactly one report and return 0; otherwise the loop is entered with `k = 0`, nothing else changing. An iteration with `k`
bytes delivered returns `k` on an empty buffer; otherwise the oldest byte goes to position `k` in the same step, and the
loop goes on, or the command returns `length` after its last byte. -/
def Obligations.RecvStringSteps : Prop :=
  ∀ (s : State) (pv : Bool) (inst : Byte) (len : Len), s.isReady = true →
    encode (.recvString pv inst len) =
      .d (0x60000000#32 ||| (BitVec.ofBool pv).setWidth 32 <<< 24 ||| inst.setWidth 32 <<< 16 ||| len.setWidth 32) ∧
    (s.cmd.progress = none → len = 0 →
      exec (.recvString pv inst len) s = .next (s.returned [] (.count 0) s.cmd.dst)) ∧
    (s.cmd.progress = none → len ≠ 0 → (s.config.nInst ≤ inst.toNat ∨ pv = false) → s.halted = none →
      s.paramReport inst 6 ∉ s.config.halts →
      exec (.recvString pv inst len) s =
        .next (s.returned [.report (s.paramReport inst 6)] (.count 0) s.cmd.dst)) ∧
    (s.cmd.progress = none → len ≠ 0 → inst.toNat < s.config.nInst → len.toNat ≤ s.cmd.dst.length →
      exec (.recvString true inst len) s = .next (s.setCmd { s.cmd with progress := some 0 })) ∧
    (∀ k, s.Inv → inst.toNat < s.config.nInst → s.cmd.progress = some k → k < len.toNat →
      let b := (s.uart inst.toNat).rx
      let t := s.setRx inst.toNat { b with head := (b.head + 1) % b.cap, count := b.count - 1 }
      (b.count = 0 →
        exec (.recvString pv inst len) s = .next (s.returned [] (.count (BitVec.ofNat 16 k)) s.cmd.dst)) ∧
      (b.count ≠ 0 → ∃ x, b.st[b.head]? = some x ∧
        (k + 1 < len.toNat → exec (.recvString pv inst len) s =
          .next { t.setCmd { s.cmd with dst := s.cmd.dst.set k x, progress := some (k + 1) } with
            trace := s.trace ++ [.outWrite s.turn k x] }) ∧
        (k + 1 = len.toNat → exec (.recvString pv inst len) s =
          .next (t.returned [.outWrite s.turn k x] (.count len) (s.cmd.dst.set k x)))))

/-- R183, R98: a SEND_STRING that no other agent interrupts returns `min(length, free space)` within `length + 1` steps
and leaves exactly that many bytes of its source enqueued, in order, behind what the send buffer held; nothing else of
the instance and no other instance changes. The bound on the steps rests on the model's reading that the return shares the
step of the last iteration (log 9). -/
def Obligations.UninterruptedSendString : Prop :=
  ∀ (s : State) (p : Port) (c : Command) (q : List Command) (inst : Byte) (len : Len) (rest : List Agent),
    s.Inv → s.isReady = true → s.halted = none → s.queue p = c :: q → c.progress = none →
    decode (.d c.word) = .ok (.sendString true inst len) → inst.toNat < s.config.nInst →
    len.toNat ≤ c.src.length → s.sched = List.replicate (len.toNat + 1) (.port p) ++ rest →
    let b := (s.uart inst.toNat).tx
    let m := min len.toNat (b.cap - b.count)
    ∃ (n : Nat) (t : State), n ≤ len.toNat + 1 ∧ Host.Core.run Sys2Proof.core n s = .next t ∧
      t.queue p = q ∧ t.trace = s.trace ++ [.ret p (.count (BitVec.ofNat 16 m)) c.dst] ∧
      (t.uart inst.toNat).tx.contents = b.contents ++ c.src.take m ∧
      (∃ tx, t.uart inst.toNat = { s.uart inst.toNat with tx := tx }) ∧
      ∀ j, j ≠ inst.toNat → t.uart j = s.uart j

/-- R184: a RECV_STRING that no other agent interrupts returns `min(length, count)` within `length + 1` steps, delivers
exactly that many bytes of the receive buffer, oldest first, to the positions `0, 1, ...` of the destination, leaves the
later positions and the rest of the buffer as they were, and changes no other instance. The bound on the
steps rests on the model's reading that the return shares the step of the last iteration (log 9). -/
def Obligations.UninterruptedRecvString : Prop :=
  ∀ (s : State) (p : Port) (c : Command) (q : List Command) (inst : Byte) (len : Len) (rest : List Agent),
    s.Inv → s.isReady = true → s.halted = none → s.queue p = c :: q → c.progress = none →
    decode (.d c.word) = .ok (.recvString true inst len) → inst.toNat < s.config.nInst →
    len.toNat ≤ c.dst.length → s.sched = List.replicate (len.toNat + 1) (.port p) ++ rest →
    let b := (s.uart inst.toNat).rx
    let m := min len.toNat b.count
    ∃ (n : Nat) (t : State), n ≤ len.toNat + 1 ∧ Host.Core.run Sys2Proof.core n s = .next t ∧
      t.queue p = q ∧
      t.trace = s.trace ++ ((b.contents.take m).zipIdx.map fun x => .outWrite p x.2 x.1) ++
        [.ret p (.count (BitVec.ofNat 16 m)) (b.contents.take m ++ c.dst.drop m)] ∧
      (t.uart inst.toNat).rx.contents = b.contents.drop m ∧
      (∃ rx, t.uart inst.toNat = { s.uart inst.toNat with rx := rx }) ∧
      ∀ j, j ≠ inst.toNat → t.uart j = s.uart j

/-- R37, R39: the index of a string command is at most its length in every state of a run. That it stays strictly below,
for a command that has not returned, rests on the model's reading that the return shares the step of the last iteration
(log 9). -/
def Obligations.StringIndexStaysInRange : Prop :=
  ∀ s t : State, (∀ p, ∀ c ∈ s.queue p, c.indexOk) → step s = .next t → ∀ p, ∀ c ∈ t.queue p, c.indexOk

/-! ## Error reports -/

/-- R211, R213: the report word and the five codes. -/
def Obligations.ReportWordFields : Prop :=
  (∀ r : Report,
    (reportWord r).extractLsb' 24 8 = r.moduleId ∧ (reportWord r).extractLsb' 16 8 = r.instanceId ∧
    (reportWord r).extractLsb' 8 8 = r.operationId ∧ (reportWord r).extractLsb' 0 8 = kindCode r.kind) ∧
  kindCode .param = 1 ∧ kindCode .tbNempty = 2 ∧ kindCode .framing = 3 ∧ kindCode .overrun = 4 ∧ kindCode .parity = 5 ∧
  reportWord { moduleId := 1, instanceId := 0, operationId := 1, kind := .tbNempty } = 0x01000102 ∧
  reportWord { moduleId := 1, instanceId := 1, operationId := 3, kind := .param } = 0x01010301

/-- R212, R213: every report a command makes carries the block's module identifier, the command's instance and operation
identifier, and one of the kinds the command raises; a primitive makes none. -/
def Obligations.ReportsNameTheirCommand : Prop :=
  ∀ (i : Instr) (s t : State) (r : Report), exec i s = .next t → .report r ∈ newEvents s t →
    r.moduleId = s.config.moduleId ∧ ∃ o, reportOrigin i = some o ∧ r.operationId = o.operationId ∧
      r.instanceId = o.instanceId ∧ r.kind ∈ o.kinds

/-- R216, R217: an `E_PARAM` stands alone: a command that makes one makes no other report and no register access, and
changes no instance and no register. -/
def Obligations.ParamReportStandsAlone : Prop :=
  ∀ (i : Instr) (s t : State) (r : Report), exec i s = .next t → .report r ∈ newEvents s t → r.kind = .param →
    reportsOf (newEvents s t) = [r] ∧ accessesOf (newEvents s t) = [] ∧ t.uarts = s.uarts ∧ t.mem = s.mem ∧
      t.answers = s.answers ∧ t.draws = s.draws ∧ t.fifo = s.fifo

/-- R215: `REPORTER_HALTS` is false of every report by default. A command stops the block exactly when it makes a report
of which it holds; the report is then the last thing the command does, the command has not returned, and the whole block is
stopped for good. -/
def Obligations.HaltingReportStopsTheBlock : Prop :=
  Config.standard.halts = [] ∧
  (∀ (i : Instr) (s t : State) (r : Report), s.halted = none → exec i s = .next t →
    (t.halted = some r ↔ .report r ∈ newEvents s t ∧ r ∈ s.config.halts) ∧
    (t.halted = some r → t.trace.getLast? = some (.report r) ∧ t.queue s.turn = s.queue s.turn ∧ t.fifo = s.fifo)) ∧
  (∀ (s : State) (r : Report), s.config.wf = true → s.halted = some r → step s = .fault (.reporterHalted r))

/-- R215: where `REPORTER_HALTS` holds of no report, no command ever stops the block. -/
def Obligations.ReturningReporterNeverHalts : Prop :=
  ∀ s t : State, s.config.halts = [] → step s = .next t → t.halted = none

/-! ## The whole machine -/

/-- R27, R36: no command but INIT changes a ready bit or a configuration latch. -/
def Obligations.OnlyInitChangesReadyAndLatches : Prop :=
  ∀ (i : Instr) (s t : State), (∀ pv, i ≠ .init pv) → exec i s = .next t →
    ∀ j, (t.uart j).ready = (s.uart j).ready ∧ (t.uart j).baud = (s.uart j).baud ∧
      (t.uart j).stop = (s.uart j).stop ∧ (t.uart j).par = (s.uart j).par

/-- R25, R75: a command on one instance changes no other instance, and a primitive of the stand-alone buffer changes
none; no driver command changes the stand-alone buffer. -/
def Obligations.InstancesAreIsolated : Prop :=
  ∀ (i : Instr) (s t : State), (∀ pv, i ≠ .init pv) → exec i s = .next t →
    (∀ j : Nat, (∀ inst, instOf i = some inst → inst.toNat ≠ j) → t.uart j = s.uart j) ∧
    (i.format = .d → t.fifo = s.fifo)

/-- R155, R156, R71: SEND_UPDATE, SEND_BYTE and SEND_STRING touch no receive buffer and no shadow byte; RECV_UPDATE,
RECV_BYTE, RECV_STRING and PEEK_LAST_BYTE touch no send buffer; PEEK_LAST_BYTE touches neither. -/
def Obligations.DirectionsAreSeparate : Prop :=
  ∀ (s t : State) (pv : Bool) (inst byte : Byte) (len : Len),
    (exec (.sendUpdate inst) s = .next t ∨ exec (.sendByte inst byte) s = .next t ∨
        exec (.sendString pv inst len) s = .next t →
      ∀ j, (t.uart j).rx = (s.uart j).rx ∧ (t.uart j).lastRx = (s.uart j).lastRx) ∧
    (exec (.recvUpdate inst) s = .next t ∨ exec (.recvByte pv inst) s = .next t ∨
        exec (.recvString pv inst len) s = .next t → ∀ j, (t.uart j).tx = (s.uart j).tx) ∧
    (exec (.peekLastByte pv inst) s = .next t → t.uarts = s.uarts)

/-- R75, R161: the frame of the register space: a command changes no byte but those it writes. -/
def Obligations.RegisterSpaceFrame : Prop :=
  ∀ (i : Instr) (s t : State), exec i s = .next t →
    ∀ a, ¬ mayWrite s.config i a → t.mem.read a = s.mem.read a

/-- R161: the register accesses each command makes: SEND_UPDATE none, or `STATUS`, or `STATUS` and then `DATA` written;
RECV_UPDATE none, or `STATUS`, or `STATUS` and then `DATA` read; INIT none or four writes for each record; any other
command none, and it takes no answer of a peripheral. -/
def Obligations.RegisterAccessesPerCommand : Prop :=
  ∀ (i : Instr) (s t : State), exec i s = .next t →
    (∀ inst, i = .sendUpdate inst → accessesOf (newEvents s t) = [] ∨
      (∃ v, accessesOf (newEvents s t) = [.regRead inst.toNat .status v]) ∨
      ∃ v x, accessesOf (newEvents s t) = [.regRead inst.toNat .status v, .regWrite inst.toNat .data x]) ∧
    (∀ inst, i = .recvUpdate inst → accessesOf (newEvents s t) = [] ∨
      (∃ v, accessesOf (newEvents s t) = [.regRead inst.toNat .status v]) ∨
      ∃ v d, accessesOf (newEvents s t) = [.regRead inst.toNat .status v, .regRead inst.toNat .data d]) ∧
    (∀ pv, i = .init pv → (accessesOf (newEvents s t)).length = if pv then 4 * s.config.table.length else 0) ∧
    ((∀ inst, i ≠ .sendUpdate inst ∧ i ≠ .recvUpdate inst) →
      t.answers = s.answers ∧ t.draws = s.draws ∧ ((∀ pv, i ≠ .init pv) → accessesOf (newEvents s t) = []))

/-- R16, R218: a command has the same meaning on either driver port. -/
def Obligations.PortsAreInterchangeable : Prop :=
  ∀ (i : Instr) (s : State),
    exec i s.swapPorts = match exec i s with
      | .next t => .next t.swapPorts
      | .fault r => .fault r
      | .refused r => .refused r

/-- R210, R20, R73: a step only appends to the trace, takes answers only from the front of the script, and changes no
parameter. A driver port that does not take the step keeps its queue; the port that takes it keeps its later commands, and
its first one has left, or is still there with its word and its source as presented. The stand-alone buffer's port loses its
first word when it takes the step, and keeps its queue otherwise. -/
def Obligations.TraceIsAppendOnly : Prop :=
  ∀ s t : State, step s = .next t → s.trace <+: t.trace ∧ t.answers <:+ s.answers ∧ t.config = s.config ∧
    (∀ p, s.sched.head? ≠ some (.port p) → t.queue p = s.queue p) ∧
    (∀ p, s.sched.head? = some (.port p) → t.queue p = (s.queue p).tail ∨
      ∃ c q dst k, s.queue p = c :: q ∧ t.queue p = { c with dst := dst, progress := k } :: q) ∧
    (s.sched.head? ≠ some .fifo → t.fifo.queue = s.fifo.queue) ∧
    (s.sched.head? = some .fifo → t.fifo.queue = s.fifo.queue.tail)

/-- R21, R24, R25, R27, R29, R142: the invariant of a run is kept by every step. -/
def Obligations.InvariantKept : Prop := ∀ s t : State, s.Inv → step s = .next t → t.Inv

/-- The invariant holds right after reset, with every configuration the model admits. -/
def Obligations.InvariantAtReset : Prop :=
  State.reset.Inv ∧ ∀ c : Config, c.wf = true → (State.resetWith c).Inv
end

