-- ==== Sys2Proof/Laws/Buffer.lean ====
section
/-! SUPPORT. What each circular-buffer primitive can do, said once (spec/40_circular_buffer.md R121 to R124). -/

namespace Sys2Proof.Machine

@[simp] theorem Buffer.create_st (b : Buffer) : b.create.st = b.st := rfl
@[simp] theorem Buffer.create_cap (b : Buffer) : b.create.cap = b.cap := rfl
@[simp] theorem Buffer.create_head (b : Buffer) : b.create.head = 0 := rfl
@[simp] theorem Buffer.create_tail (b : Buffer) : b.create.tail = 0 := rfl
@[simp] theorem Buffer.create_count (b : Buffer) : b.create.count = 0 := rfl
@[simp] theorem Buffer.blank_cap (n : Nat) : (Buffer.blank n).cap = n := by simp [Buffer.cap, Buffer.blank]

theorem Buffer.full_iff (b : Buffer) : b.full = true ↔ b.count = b.cap := by simp [Buffer.full]

theorem Buffer.empty_iff (b : Buffer) : b.empty = true ↔ b.count = 0 := by simp [Buffer.empty]

/-- Enqueue fails exactly on a full buffer. -/
theorem Buffer.enq_none {b : Buffer} {x : Byte} : b.enq x = none ↔ b.count = b.cap := by
  simp [Buffer.enq, Buffer.full]

/-- All that a successful Enqueue does. -/
theorem Buffer.enq_some {b b' : Buffer} {x : Byte} :
    b.enq x = some b' ↔ b.count ≠ b.cap ∧
      b' = { b with st := b.st.set b.tail x, tail := (b.tail + 1) % b.cap, count := b.count + 1 } := by
  by_cases h : b.count = b.cap
  · simp [Buffer.enq, Buffer.full, h]
  · simpa [Buffer.enq, Buffer.full, h] using eq_comm

/-- Dequeue fails exactly on an empty buffer. -/
theorem Buffer.deq_none {b : Buffer} : b.deq = none ↔ b.count = 0 := by
  simp [Buffer.deq, Buffer.empty]

/-- All that a successful Dequeue does. -/
theorem Buffer.deq_some {b b' : Buffer} {x : Byte} :
    b.deq = some (x, b') ↔ b.count ≠ 0 ∧ x = b.st.getD b.head 0 ∧
      b' = { b with head := (b.head + 1) % b.cap, count := b.count - 1 } := by
  by_cases h : b.count = 0
  · simp [Buffer.deq, Buffer.empty, h]
  · simp only [Buffer.deq, Buffer.empty, beq_iff_eq, h, if_false, Option.some.injEq, Prod.mk.injEq, ne_eq,
      not_false_eq_true, true_and]
    exact and_congr eq_comm eq_comm

/-- PeekLast fails exactly on an empty buffer. -/
theorem Buffer.peekLast_none {b : Buffer} : b.peekLast = none ↔ b.count = 0 := by
  simp [Buffer.peekLast, Buffer.empty]

/-- All that a successful PeekLast answers. -/
theorem Buffer.peekLast_some {b : Buffer} {x : Byte} :
    b.peekLast = some x ↔ b.count ≠ 0 ∧ x = b.st.getD b.behindTail 0 := by
  by_cases h : b.count = 0
  · simp [Buffer.peekLast, Buffer.empty, h]
  · simpa [Buffer.peekLast, Buffer.empty, h] using eq_comm

/-- Enqueue keeps the capacity. -/
theorem Buffer.enq_cap {b b' : Buffer} {x : Byte} (h : b.enq x = some b') : b'.cap = b.cap := by
  obtain ⟨_, rfl⟩ := Buffer.enq_some.1 h
  simp [Buffer.cap]

/-- Dequeue keeps the capacity. -/
theorem Buffer.deq_cap {b b' : Buffer} {x : Byte} (h : b.deq = some (x, b')) : b'.cap = b.cap := by
  obtain ⟨_, _, rfl⟩ := Buffer.deq_some.1 h
  rfl

/-- Create establishes the buffer invariant (spec/10_state.md R21). -/
theorem Buffer.create_wf {b : Buffer} (h : 1 ≤ b.cap) : b.create.WF :=
  ⟨Nat.zero_le _, h, h, by simp⟩

/-- Enqueue keeps the buffer invariant (spec/10_state.md R21). -/
theorem Buffer.enq_wf {b b' : Buffer} {x : Byte} (hb : b.WF) (h : b.enq x = some b') : b'.WF := by
  have hc := Buffer.enq_cap h
  obtain ⟨hne, rfl⟩ := Buffer.enq_some.1 h
  obtain ⟨h1, h2, h3, h4⟩ := hb
  refine ⟨?_, ?_, ?_, ?_⟩
  · rw [hc]; show b.count + 1 ≤ b.cap; omega
  · rw [hc]; exact h2
  · rw [hc]; exact Nat.mod_lt _ (by omega)
  · rw [hc]
    show (b.tail + 1) % b.cap = (b.head + (b.count + 1)) % b.cap
    rw [h4, Nat.mod_add_mod, Nat.add_assoc]

/-- Dequeue keeps the buffer invariant (spec/10_state.md R21). -/
theorem Buffer.deq_wf {b b' : Buffer} {x : Byte} (hb : b.WF) (h : b.deq = some (x, b')) : b'.WF := by
  have hc := Buffer.deq_cap h
  obtain ⟨hne, _, rfl⟩ := Buffer.deq_some.1 h
  obtain ⟨h1, h2, h3, h4⟩ := hb
  refine ⟨?_, ?_, ?_, ?_⟩
  · rw [hc]; show b.count - 1 ≤ b.cap; omega
  · rw [hc]; exact Nat.mod_lt _ (by omega)
  · rw [hc]; exact h3
  · rw [hc]
    show b.tail = ((b.head + 1) % b.cap + (b.count - 1)) % b.cap
    rw [Nat.mod_add_mod, h4]
    congr 1
    omega

end Sys2Proof.Machine
end

