-- ==== Sys2Proof/Laws/Decode.lean ====
section
/-! SUPPORT. The fields of an assembled format D word (spec/30_encoding.md R91), and of a format F word (R95). -/

namespace Sys2Proof

/-- An assembled word as a number: the fields do not overlap. -/
theorem packD_toNat (op : BitVec 4) (pv : Bool) (inst : Byte) (x : Len) :
    (packD op pv inst x).toNat = op.toNat * 2 ^ 28 + pv.toNat * 2 ^ 24 + inst.toNat * 2 ^ 16 + x.toNat := by
  have h1 := op.isLt
  have h2 := inst.isLt
  have h3 := x.isLt
  have h4 : (BitVec.ofBool pv).toNat = pv.toNat := by cases pv <;> rfl
  have h5 : pv.toNat < 2 := by cases pv <;> decide
  unfold packD
  erw [BitVec.toNat_append, BitVec.toNat_append, BitVec.toNat_append, BitVec.toNat_append]
  simp only [Nat.shiftLeft_eq, BitVec.toNat_ofNat, Nat.zero_mod, Nat.or_zero, h4]
  rw [Nat.mul_comm _ (2 ^ 1), ← Nat.two_pow_add_eq_or_of_lt (by omega), Nat.mul_comm _ (2 ^ 8),
    ← Nat.two_pow_add_eq_or_of_lt (by omega), Nat.mul_comm _ (2 ^ 16), ← Nat.two_pow_add_eq_or_of_lt (by omega)]
  omega

/-- `PV` as a number. -/
theorem pvField_eq (w : Word) : pvField w = decide (w.toNat / 2 ^ 24 % 2 = 1) := by
  simp [pvField, BitVec.getLsbD, Nat.testBit_eq_decide_div_mod_eq]

section Fields

variable (op : BitVec 4) (pv : Bool) (inst : Byte) (x : Len)

theorem opcodeField_packD : opcodeField (packD op pv inst x) = op := by
  apply BitVec.eq_of_toNat_eq
  simp only [opcodeField, BitVec.extractLsb'_toNat, packD_toNat, Nat.shiftRight_eq_div_pow]
  have h5 : pv.toNat < 2 := by cases pv <;> decide
  omega

theorem rsvField_packD : rsvField (packD op pv inst x) = 0 := by
  apply BitVec.eq_of_toNat_eq
  simp only [rsvField, BitVec.extractLsb'_toNat, packD_toNat, Nat.shiftRight_eq_div_pow]
  have h0 : (0 : BitVec 3).toNat = 0 := rfl
  have h5 : pv.toNat < 2 := by cases pv <;> decide
  omega

theorem instField_packD : instField (packD op pv inst x) = inst := by
  apply BitVec.eq_of_toNat_eq
  simp only [instField, BitVec.extractLsb'_toNat, packD_toNat, Nat.shiftRight_eq_div_pow]
  have h2 := inst.isLt
  omega

theorem operandField_packD : operandField (packD op pv inst x) = x := by
  apply BitVec.eq_of_toNat_eq
  simp only [operandField, BitVec.extractLsb'_toNat, packD_toNat, Nat.shiftRight_eq_div_pow]
  have h3 := x.isLt
  omega

theorem pvField_packD : pvField (packD op pv inst x) = pv := by
  rw [pvField_eq, packD_toNat]
  have h2 := inst.isLt
  have h3 := x.isLt
  cases pv <;> simp <;> omega

end Fields

/-- The low byte of the operand is the byte field, the high byte is what SEND_BYTE needs zero. -/
theorem byteField_eq (w : Word) : byteField w = (operandField w).extractLsb' 0 8 := by
  apply BitVec.eq_of_toNat_eq
  simp only [byteField, operandField, BitVec.extractLsb'_toNat, Nat.shiftRight_eq_div_pow]
  omega

theorem operandHigh_eq (w : Word) : operandHigh w = (operandField w).extractLsb' 8 8 := by
  apply BitVec.eq_of_toNat_eq
  simp only [operandHigh, operandField, BitVec.extractLsb'_toNat, Nat.shiftRight_eq_div_pow]
  omega

/-- An assembled format F word as a number. -/
theorem packF_toNat (op : BitVec 2) (byte : Byte) : (packF op byte).toNat = op.toNat * 2 ^ 8 + byte.toNat := by
  have h := byte.isLt
  unfold packF
  erw [BitVec.toNat_append]
  rw [Nat.shiftLeft_eq, Nat.mul_comm, ← Nat.two_pow_add_eq_or_of_lt h]

theorem fopField_packF (op : BitVec 2) (byte : Byte) : fopField (packF op byte) = op := by
  apply BitVec.eq_of_toNat_eq
  simp only [fopField, BitVec.extractLsb'_toNat, packF_toNat, Nat.shiftRight_eq_div_pow]
  omega

theorem fbyteField_packF (op : BitVec 2) (byte : Byte) : fbyteField (packF op byte) = byte := by
  apply BitVec.eq_of_toNat_eq
  simp only [fbyteField, BitVec.extractLsb'_toNat, packF_toNat, Nat.shiftRight_eq_div_pow]
  omega

/-- A format F word is its two fields. -/
theorem packF_fields (w : FWord) : packF (fopField w) (fbyteField w) = w := by
  apply BitVec.eq_of_toNat_eq
  simp only [packF_toNat, fopField, fbyteField, BitVec.extractLsb'_toNat, Nat.shiftRight_eq_div_pow]
  omega

/-- A format D word with `rsv` zero is its four other fields. -/
theorem packD_fields {w : Word} (h : rsvField w = 0) :
    packD (opcodeField w) (pvField w) (instField w) (operandField w) = w := by
  apply BitVec.eq_of_toNat_eq
  have hr := congrArg BitVec.toNat h
  have hp : (pvField w).toNat = w.toNat / 2 ^ 24 % 2 := by
    rw [pvField_eq]
    by_cases hb : w.toNat / 2 ^ 24 % 2 = 1
    · rw [decide_eq_true hb, hb]
      rfl
    · rw [decide_eq_false hb]
      show 0 = _
      omega
  have h0 : (0 : BitVec 3).toNat = 0 := rfl
  simp only [rsvField, BitVec.extractLsb'_toNat, Nat.shiftRight_eq_div_pow, h0] at hr
  simp only [packD_toNat, hp, opcodeField, instField, operandField, BitVec.extractLsb'_toNat, Nat.shiftRight_eq_div_pow]
  omega

end Sys2Proof
end

