-- ==== Sys2Proof/Laws/State.lean ====
section
/-! SUPPORT. One lemma per field of the state per update, so that no later proof unfolds a record update. -/

namespace Sys2Proof.Machine


/-! ### `emit` -/

@[simp] theorem State.emit_config (s : State) (e : Event) : (s.emit e).config = s.config := rfl
@[simp] theorem State.emit_uarts (s : State) (e : Event) : (s.emit e).uarts = s.uarts := rfl
@[simp] theorem State.emit_mem (s : State) (e : Event) : (s.emit e).mem = s.mem := rfl
@[simp] theorem State.emit_fg (s : State) (e : Event) : (s.emit e).fg = s.fg := rfl
@[simp] theorem State.emit_tick (s : State) (e : Event) : (s.emit e).tick = s.tick := rfl
@[simp] theorem State.emit_turn (s : State) (e : Event) : (s.emit e).turn = s.turn := rfl
@[simp] theorem State.emit_sched (s : State) (e : Event) : (s.emit e).sched = s.sched := rfl
@[simp] theorem State.emit_answers (s : State) (e : Event) : (s.emit e).answers = s.answers := rfl
@[simp] theorem State.emit_draws (s : State) (e : Event) : (s.emit e).draws = s.draws := rfl
@[simp] theorem State.emit_trace (s : State) (e : Event) : (s.emit e).trace = s.trace ++ [e] := rfl
@[simp] theorem State.emit_halted (s : State) (e : Event) : (s.emit e).halted = s.halted := rfl
@[simp] theorem State.emit_fifo (s : State) (e : Event) : (s.emit e).fifo = s.fifo := rfl

/-! ### `setUart` -/

@[simp] theorem State.setUart_config (s : State) (i : Nat) (u : Uart) : (s.setUart i u).config = s.config := rfl
@[simp] theorem State.setUart_uarts (s : State) (i : Nat) (u : Uart) : (s.setUart i u).uarts = s.uarts.set i u := rfl
@[simp] theorem State.setUart_mem (s : State) (i : Nat) (u : Uart) : (s.setUart i u).mem = s.mem := rfl
@[simp] theorem State.setUart_fg (s : State) (i : Nat) (u : Uart) : (s.setUart i u).fg = s.fg := rfl
@[simp] theorem State.setUart_tick (s : State) (i : Nat) (u : Uart) : (s.setUart i u).tick = s.tick := rfl
@[simp] theorem State.setUart_turn (s : State) (i : Nat) (u : Uart) : (s.setUart i u).turn = s.turn := rfl
@[simp] theorem State.setUart_sched (s : State) (i : Nat) (u : Uart) : (s.setUart i u).sched = s.sched := rfl
@[simp] theorem State.setUart_answers (s : State) (i : Nat) (u : Uart) : (s.setUart i u).answers = s.answers := rfl
@[simp] theorem State.setUart_draws (s : State) (i : Nat) (u : Uart) : (s.setUart i u).draws = s.draws := rfl
@[simp] theorem State.setUart_trace (s : State) (i : Nat) (u : Uart) : (s.setUart i u).trace = s.trace := rfl
@[simp] theorem State.setUart_halted (s : State) (i : Nat) (u : Uart) : (s.setUart i u).halted = s.halted := rfl
@[simp] theorem State.setUart_fifo (s : State) (i : Nat) (u : Uart) : (s.setUart i u).fifo = s.fifo := rfl

/-! ### `setTx` -/

@[simp] theorem State.setTx_config (s : State) (i : Nat) (b : Buffer) : (s.setTx i b).config = s.config := rfl
@[simp] theorem State.setTx_uarts (s : State) (i : Nat) (b : Buffer) : (s.setTx i b).uarts = s.uarts.set i { s.uart i with tx := b } := rfl
@[simp] theorem State.setTx_mem (s : State) (i : Nat) (b : Buffer) : (s.setTx i b).mem = s.mem := rfl
@[simp] theorem State.setTx_fg (s : State) (i : Nat) (b : Buffer) : (s.setTx i b).fg = s.fg := rfl
@[simp] theorem State.setTx_tick (s : State) (i : Nat) (b : Buffer) : (s.setTx i b).tick = s.tick := rfl
@[simp] theorem State.setTx_turn (s : State) (i : Nat) (b : Buffer) : (s.setTx i b).turn = s.turn := rfl
@[simp] theorem State.setTx_sched (s : State) (i : Nat) (b : Buffer) : (s.setTx i b).sched = s.sched := rfl
@[simp] theorem State.setTx_answers (s : State) (i : Nat) (b : Buffer) : (s.setTx i b).answers = s.answers := rfl
@[simp] theorem State.setTx_draws (s : State) (i : Nat) (b : Buffer) : (s.setTx i b).draws = s.draws := rfl
@[simp] theorem State.setTx_trace (s : State) (i : Nat) (b : Buffer) : (s.setTx i b).trace = s.trace := rfl
@[simp] theorem State.setTx_halted (s : State) (i : Nat) (b : Buffer) : (s.setTx i b).halted = s.halted := rfl
@[simp] theorem State.setTx_fifo (s : State) (i : Nat) (b : Buffer) : (s.setTx i b).fifo = s.fifo := rfl

/-! ### `setRx` -/

@[simp] theorem State.setRx_config (s : State) (i : Nat) (b : Buffer) : (s.setRx i b).config = s.config := rfl
@[simp] theorem State.setRx_uarts (s : State) (i : Nat) (b : Buffer) : (s.setRx i b).uarts = s.uarts.set i { s.uart i with rx := b } := rfl
@[simp] theorem State.setRx_mem (s : State) (i : Nat) (b : Buffer) : (s.setRx i b).mem = s.mem := rfl
@[simp] theorem State.setRx_fg (s : State) (i : Nat) (b : Buffer) : (s.setRx i b).fg = s.fg := rfl
@[simp] theorem State.setRx_tick (s : State) (i : Nat) (b : Buffer) : (s.setRx i b).tick = s.tick := rfl
@[simp] theorem State.setRx_turn (s : State) (i : Nat) (b : Buffer) : (s.setRx i b).turn = s.turn := rfl
@[simp] theorem State.setRx_sched (s : State) (i : Nat) (b : Buffer) : (s.setRx i b).sched = s.sched := rfl
@[simp] theorem State.setRx_answers (s : State) (i : Nat) (b : Buffer) : (s.setRx i b).answers = s.answers := rfl
@[simp] theorem State.setRx_draws (s : State) (i : Nat) (b : Buffer) : (s.setRx i b).draws = s.draws := rfl
@[simp] theorem State.setRx_trace (s : State) (i : Nat) (b : Buffer) : (s.setRx i b).trace = s.trace := rfl
@[simp] theorem State.setRx_halted (s : State) (i : Nat) (b : Buffer) : (s.setRx i b).halted = s.halted := rfl
@[simp] theorem State.setRx_fifo (s : State) (i : Nat) (b : Buffer) : (s.setRx i b).fifo = s.fifo := rfl

/-! ### `pushRx` -/

@[simp] theorem State.pushRx_config (s : State) (i : Nat) (b : Buffer) (d : Byte) : (s.pushRx i b d).config = s.config := rfl
@[simp] theorem State.pushRx_uarts (s : State) (i : Nat) (b : Buffer) (d : Byte) : (s.pushRx i b d).uarts = s.uarts.set i { s.uart i with rx := b, lastRx := d } := rfl
@[simp] theorem State.pushRx_mem (s : State) (i : Nat) (b : Buffer) (d : Byte) : (s.pushRx i b d).mem = s.mem := rfl
@[simp] theorem State.pushRx_fg (s : State) (i : Nat) (b : Buffer) (d : Byte) : (s.pushRx i b d).fg = s.fg := rfl
@[simp] theorem State.pushRx_tick (s : State) (i : Nat) (b : Buffer) (d : Byte) : (s.pushRx i b d).tick = s.tick := rfl
@[simp] theorem State.pushRx_turn (s : State) (i : Nat) (b : Buffer) (d : Byte) : (s.pushRx i b d).turn = s.turn := rfl
@[simp] theorem State.pushRx_sched (s : State) (i : Nat) (b : Buffer) (d : Byte) : (s.pushRx i b d).sched = s.sched := rfl
@[simp] theorem State.pushRx_answers (s : State) (i : Nat) (b : Buffer) (d : Byte) : (s.pushRx i b d).answers = s.answers := rfl
@[simp] theorem State.pushRx_draws (s : State) (i : Nat) (b : Buffer) (d : Byte) : (s.pushRx i b d).draws = s.draws := rfl
@[simp] theorem State.pushRx_trace (s : State) (i : Nat) (b : Buffer) (d : Byte) : (s.pushRx i b d).trace = s.trace := rfl
@[simp] theorem State.pushRx_halted (s : State) (i : Nat) (b : Buffer) (d : Byte) : (s.pushRx i b d).halted = s.halted := rfl
@[simp] theorem State.pushRx_fifo (s : State) (i : Nat) (b : Buffer) (d : Byte) : (s.pushRx i b d).fifo = s.fifo := rfl

/-! ### `regWrite` -/

@[simp] theorem State.regWrite_config (s : State) (i : Nat) (r : Reg) (v : Byte) : (s.regWrite i r v).config = s.config := rfl
@[simp] theorem State.regWrite_uarts (s : State) (i : Nat) (r : Reg) (v : Byte) : (s.regWrite i r v).uarts = s.uarts := rfl
@[simp] theorem State.regWrite_mem (s : State) (i : Nat) (r : Reg) (v : Byte) : (s.regWrite i r v).mem = s.mem.write (regAddr s.config i r) v := rfl
@[simp] theorem State.regWrite_fg (s : State) (i : Nat) (r : Reg) (v : Byte) : (s.regWrite i r v).fg = s.fg := rfl
@[simp] theorem State.regWrite_tick (s : State) (i : Nat) (r : Reg) (v : Byte) : (s.regWrite i r v).tick = s.tick := rfl
@[simp] theorem State.regWrite_turn (s : State) (i : Nat) (r : Reg) (v : Byte) : (s.regWrite i r v).turn = s.turn := rfl
@[simp] theorem State.regWrite_sched (s : State) (i : Nat) (r : Reg) (v : Byte) : (s.regWrite i r v).sched = s.sched := rfl
@[simp] theorem State.regWrite_answers (s : State) (i : Nat) (r : Reg) (v : Byte) : (s.regWrite i r v).answers = s.answers := rfl
@[simp] theorem State.regWrite_draws (s : State) (i : Nat) (r : Reg) (v : Byte) : (s.regWrite i r v).draws = s.draws := rfl
@[simp] theorem State.regWrite_trace (s : State) (i : Nat) (r : Reg) (v : Byte) : (s.regWrite i r v).trace = s.trace ++ [.regWrite i r v] := rfl
@[simp] theorem State.regWrite_halted (s : State) (i : Nat) (r : Reg) (v : Byte) : (s.regWrite i r v).halted = s.halted := rfl
@[simp] theorem State.regWrite_fifo (s : State) (i : Nat) (r : Reg) (v : Byte) : (s.regWrite i r v).fifo = s.fifo := rfl

/-! ### `report` -/

@[simp] theorem State.report_config (s : State) (k : ErrorKind) (inst op : Byte) : (s.report k inst op).config = s.config := rfl
@[simp] theorem State.report_uarts (s : State) (k : ErrorKind) (inst op : Byte) : (s.report k inst op).uarts = s.uarts := rfl
@[simp] theorem State.report_mem (s : State) (k : ErrorKind) (inst op : Byte) : (s.report k inst op).mem = s.mem := rfl
@[simp] theorem State.report_fg (s : State) (k : ErrorKind) (inst op : Byte) : (s.report k inst op).fg = s.fg := rfl
@[simp] theorem State.report_tick (s : State) (k : ErrorKind) (inst op : Byte) : (s.report k inst op).tick = s.tick := rfl
@[simp] theorem State.report_turn (s : State) (k : ErrorKind) (inst op : Byte) : (s.report k inst op).turn = s.turn := rfl
@[simp] theorem State.report_sched (s : State) (k : ErrorKind) (inst op : Byte) : (s.report k inst op).sched = s.sched := rfl
@[simp] theorem State.report_answers (s : State) (k : ErrorKind) (inst op : Byte) : (s.report k inst op).answers = s.answers := rfl
@[simp] theorem State.report_draws (s : State) (k : ErrorKind) (inst op : Byte) : (s.report k inst op).draws = s.draws := rfl
@[simp] theorem State.report_trace (s : State) (k : ErrorKind) (inst op : Byte) : (s.report k inst op).trace = s.trace ++ [.report (s.reportOf k inst op)] := rfl
@[simp] theorem State.report_halted (s : State) (k : ErrorKind) (inst op : Byte) : (s.report k inst op).halted = if s.reportOf k inst op ∈ s.config.halts then some (s.reportOf k inst op) else s.halted := rfl
@[simp] theorem State.report_fifo (s : State) (k : ErrorKind) (inst op : Byte) : (s.report k inst op).fifo = s.fifo := rfl

/-! ### `setFifoBuf` -/

@[simp] theorem State.setFifoBuf_config (s : State) (b : Buffer) : (s.setFifoBuf b).config = s.config := rfl
@[simp] theorem State.setFifoBuf_uarts (s : State) (b : Buffer) : (s.setFifoBuf b).uarts = s.uarts := rfl
@[simp] theorem State.setFifoBuf_mem (s : State) (b : Buffer) : (s.setFifoBuf b).mem = s.mem := rfl
@[simp] theorem State.setFifoBuf_fg (s : State) (b : Buffer) : (s.setFifoBuf b).fg = s.fg := rfl
@[simp] theorem State.setFifoBuf_tick (s : State) (b : Buffer) : (s.setFifoBuf b).tick = s.tick := rfl
@[simp] theorem State.setFifoBuf_turn (s : State) (b : Buffer) : (s.setFifoBuf b).turn = s.turn := rfl
@[simp] theorem State.setFifoBuf_sched (s : State) (b : Buffer) : (s.setFifoBuf b).sched = s.sched := rfl
@[simp] theorem State.setFifoBuf_answers (s : State) (b : Buffer) : (s.setFifoBuf b).answers = s.answers := rfl
@[simp] theorem State.setFifoBuf_draws (s : State) (b : Buffer) : (s.setFifoBuf b).draws = s.draws := rfl
@[simp] theorem State.setFifoBuf_trace (s : State) (b : Buffer) : (s.setFifoBuf b).trace = s.trace := rfl
@[simp] theorem State.setFifoBuf_halted (s : State) (b : Buffer) : (s.setFifoBuf b).halted = s.halted := rfl
@[simp] theorem State.setFifoBuf_fifo (s : State) (b : Buffer) : (s.setFifoBuf b).fifo = { s.fifo with buf := b } := rfl

/-! ### `fifoOutWrite` -/

@[simp] theorem State.fifoOutWrite_config (s : State) (b : Byte) : (s.fifoOutWrite b).config = s.config := rfl
@[simp] theorem State.fifoOutWrite_uarts (s : State) (b : Byte) : (s.fifoOutWrite b).uarts = s.uarts := rfl
@[simp] theorem State.fifoOutWrite_mem (s : State) (b : Byte) : (s.fifoOutWrite b).mem = s.mem := rfl
@[simp] theorem State.fifoOutWrite_fg (s : State) (b : Byte) : (s.fifoOutWrite b).fg = s.fg := rfl
@[simp] theorem State.fifoOutWrite_tick (s : State) (b : Byte) : (s.fifoOutWrite b).tick = s.tick := rfl
@[simp] theorem State.fifoOutWrite_turn (s : State) (b : Byte) : (s.fifoOutWrite b).turn = s.turn := rfl
@[simp] theorem State.fifoOutWrite_sched (s : State) (b : Byte) : (s.fifoOutWrite b).sched = s.sched := rfl
@[simp] theorem State.fifoOutWrite_answers (s : State) (b : Byte) : (s.fifoOutWrite b).answers = s.answers := rfl
@[simp] theorem State.fifoOutWrite_draws (s : State) (b : Byte) : (s.fifoOutWrite b).draws = s.draws := rfl
@[simp] theorem State.fifoOutWrite_trace (s : State) (b : Byte) : (s.fifoOutWrite b).trace = s.trace ++ [.fifoOut 0 b] := rfl
@[simp] theorem State.fifoOutWrite_halted (s : State) (b : Byte) : (s.fifoOutWrite b).halted = s.halted := rfl
@[simp] theorem State.fifoOutWrite_fifo (s : State) (b : Byte) : (s.fifoOutWrite b).fifo = { s.fifo with out := b } := rfl

/-! ### `fifoRet` -/

@[simp] theorem State.fifoRet_config (s : State) (r : Result) : (s.fifoRet r).config = s.config := rfl
@[simp] theorem State.fifoRet_uarts (s : State) (r : Result) : (s.fifoRet r).uarts = s.uarts := rfl
@[simp] theorem State.fifoRet_mem (s : State) (r : Result) : (s.fifoRet r).mem = s.mem := rfl
@[simp] theorem State.fifoRet_fg (s : State) (r : Result) : (s.fifoRet r).fg = s.fg := rfl
@[simp] theorem State.fifoRet_tick (s : State) (r : Result) : (s.fifoRet r).tick = s.tick := rfl
@[simp] theorem State.fifoRet_turn (s : State) (r : Result) : (s.fifoRet r).turn = s.turn := rfl
@[simp] theorem State.fifoRet_sched (s : State) (r : Result) : (s.fifoRet r).sched = s.sched := rfl
@[simp] theorem State.fifoRet_answers (s : State) (r : Result) : (s.fifoRet r).answers = s.answers := rfl
@[simp] theorem State.fifoRet_draws (s : State) (r : Result) : (s.fifoRet r).draws = s.draws := rfl
@[simp] theorem State.fifoRet_trace (s : State) (r : Result) : (s.fifoRet r).trace = s.trace ++ [.fifoRet r] := rfl
@[simp] theorem State.fifoRet_halted (s : State) (r : Result) : (s.fifoRet r).halted = s.halted := rfl
@[simp] theorem State.fifoRet_fifo (s : State) (r : Result) : (s.fifoRet r).fifo = { s.fifo with queue := s.fifo.queue.tail } := rfl

/-! ### `hardReset` -/

@[simp] theorem State.hardReset_config (s : State) : (s.hardReset).config = s.config := rfl
@[simp] theorem State.hardReset_uarts (s : State) : (s.hardReset).uarts = s.config.params.map Uart.blank := rfl
@[simp] theorem State.hardReset_mem (s : State) : (s.hardReset).mem = s.mem := rfl
@[simp] theorem State.hardReset_fg (s : State) : (s.hardReset).fg = s.fg := rfl
@[simp] theorem State.hardReset_tick (s : State) : (s.hardReset).tick = s.tick := rfl
@[simp] theorem State.hardReset_turn (s : State) : (s.hardReset).turn = s.turn := rfl
@[simp] theorem State.hardReset_sched (s : State) : (s.hardReset).sched = s.sched := rfl
@[simp] theorem State.hardReset_answers (s : State) : (s.hardReset).answers = s.answers := rfl
@[simp] theorem State.hardReset_draws (s : State) : (s.hardReset).draws = s.draws := rfl
@[simp] theorem State.hardReset_trace (s : State) : (s.hardReset).trace = s.trace := rfl
@[simp] theorem State.hardReset_halted (s : State) : (s.hardReset).halted = s.halted := rfl
@[simp] theorem State.hardReset_fifo (s : State) : (s.hardReset).fifo = { s.fifo with buf := .blank s.config.fifoCap } := rfl

/-! ### `setQueue` -/

@[simp] theorem State.setQueue_config (s : State) (p : Port) (q : List Command) : (s.setQueue p q).config = s.config := by cases p <;> rfl
@[simp] theorem State.setQueue_uarts (s : State) (p : Port) (q : List Command) : (s.setQueue p q).uarts = s.uarts := by cases p <;> rfl
@[simp] theorem State.setQueue_mem (s : State) (p : Port) (q : List Command) : (s.setQueue p q).mem = s.mem := by cases p <;> rfl
@[simp] theorem State.setQueue_turn (s : State) (p : Port) (q : List Command) : (s.setQueue p q).turn = s.turn := by cases p <;> rfl
@[simp] theorem State.setQueue_sched (s : State) (p : Port) (q : List Command) : (s.setQueue p q).sched = s.sched := by cases p <;> rfl
@[simp] theorem State.setQueue_answers (s : State) (p : Port) (q : List Command) : (s.setQueue p q).answers = s.answers := by cases p <;> rfl
@[simp] theorem State.setQueue_draws (s : State) (p : Port) (q : List Command) : (s.setQueue p q).draws = s.draws := by cases p <;> rfl
@[simp] theorem State.setQueue_trace (s : State) (p : Port) (q : List Command) : (s.setQueue p q).trace = s.trace := by cases p <;> rfl
@[simp] theorem State.setQueue_halted (s : State) (p : Port) (q : List Command) : (s.setQueue p q).halted = s.halted := by cases p <;> rfl
@[simp] theorem State.setQueue_fifo (s : State) (p : Port) (q : List Command) : (s.setQueue p q).fifo = s.fifo := by cases p <;> rfl

/-! ### `setCmd` -/

@[simp] theorem State.setCmd_config (s : State) (c : Command) : (s.setCmd c).config = s.config := by unfold State.setCmd; split <;> simp
@[simp] theorem State.setCmd_uarts (s : State) (c : Command) : (s.setCmd c).uarts = s.uarts := by unfold State.setCmd; split <;> simp
@[simp] theorem State.setCmd_mem (s : State) (c : Command) : (s.setCmd c).mem = s.mem := by unfold State.setCmd; split <;> simp
@[simp] theorem State.setCmd_turn (s : State) (c : Command) : (s.setCmd c).turn = s.turn := by unfold State.setCmd; split <;> simp
@[simp] theorem State.setCmd_sched (s : State) (c : Command) : (s.setCmd c).sched = s.sched := by unfold State.setCmd; split <;> simp
@[simp] theorem State.setCmd_answers (s : State) (c : Command) : (s.setCmd c).answers = s.answers := by unfold State.setCmd; split <;> simp
@[simp] theorem State.setCmd_draws (s : State) (c : Command) : (s.setCmd c).draws = s.draws := by unfold State.setCmd; split <;> simp
@[simp] theorem State.setCmd_trace (s : State) (c : Command) : (s.setCmd c).trace = s.trace := by unfold State.setCmd; split <;> simp
@[simp] theorem State.setCmd_halted (s : State) (c : Command) : (s.setCmd c).halted = s.halted := by unfold State.setCmd; split <;> simp
@[simp] theorem State.setCmd_fifo (s : State) (c : Command) : (s.setCmd c).fifo = s.fifo := by unfold State.setCmd; split <;> simp

/-! ### `advance` -/

@[simp] theorem State.advance_config (s : State) (k : Nat) : (s.advance k).config = s.config := by simp [State.advance]
@[simp] theorem State.advance_uarts (s : State) (k : Nat) : (s.advance k).uarts = s.uarts := by simp [State.advance]
@[simp] theorem State.advance_mem (s : State) (k : Nat) : (s.advance k).mem = s.mem := by simp [State.advance]
@[simp] theorem State.advance_turn (s : State) (k : Nat) : (s.advance k).turn = s.turn := by simp [State.advance]
@[simp] theorem State.advance_sched (s : State) (k : Nat) : (s.advance k).sched = s.sched := by simp [State.advance]
@[simp] theorem State.advance_answers (s : State) (k : Nat) : (s.advance k).answers = s.answers := by simp [State.advance]
@[simp] theorem State.advance_draws (s : State) (k : Nat) : (s.advance k).draws = s.draws := by simp [State.advance]
@[simp] theorem State.advance_trace (s : State) (k : Nat) : (s.advance k).trace = s.trace := by simp [State.advance]
@[simp] theorem State.advance_halted (s : State) (k : Nat) : (s.advance k).halted = s.halted := by simp [State.advance]
@[simp] theorem State.advance_fifo (s : State) (k : Nat) : (s.advance k).fifo = s.fifo := by simp [State.advance]

/-! ### `outWrite` -/

@[simp] theorem State.outWrite_config (s : State) (k : Nat) (b : Byte) : (s.outWrite k b).config = s.config := by simp [State.outWrite]
@[simp] theorem State.outWrite_uarts (s : State) (k : Nat) (b : Byte) : (s.outWrite k b).uarts = s.uarts := by simp [State.outWrite]
@[simp] theorem State.outWrite_mem (s : State) (k : Nat) (b : Byte) : (s.outWrite k b).mem = s.mem := by simp [State.outWrite]
@[simp] theorem State.outWrite_turn (s : State) (k : Nat) (b : Byte) : (s.outWrite k b).turn = s.turn := by simp [State.outWrite]
@[simp] theorem State.outWrite_sched (s : State) (k : Nat) (b : Byte) : (s.outWrite k b).sched = s.sched := by simp [State.outWrite]
@[simp] theorem State.outWrite_answers (s : State) (k : Nat) (b : Byte) : (s.outWrite k b).answers = s.answers := by simp [State.outWrite]
@[simp] theorem State.outWrite_draws (s : State) (k : Nat) (b : Byte) : (s.outWrite k b).draws = s.draws := by simp [State.outWrite]
@[simp] theorem State.outWrite_trace (s : State) (k : Nat) (b : Byte) : (s.outWrite k b).trace = s.trace ++ [.outWrite s.turn k b] := by simp [State.outWrite]
@[simp] theorem State.outWrite_halted (s : State) (k : Nat) (b : Byte) : (s.outWrite k b).halted = s.halted := by simp [State.outWrite]
@[simp] theorem State.outWrite_fifo (s : State) (k : Nat) (b : Byte) : (s.outWrite k b).fifo = s.fifo := by simp [State.outWrite]

/-! ### `ret` -/

@[simp] theorem State.ret_config (s : State) (r : Result) : (s.ret r).config = s.config := by simp [State.ret]
@[simp] theorem State.ret_uarts (s : State) (r : Result) : (s.ret r).uarts = s.uarts := by simp [State.ret]
@[simp] theorem State.ret_mem (s : State) (r : Result) : (s.ret r).mem = s.mem := by simp [State.ret]
@[simp] theorem State.ret_turn (s : State) (r : Result) : (s.ret r).turn = s.turn := by simp [State.ret]
@[simp] theorem State.ret_sched (s : State) (r : Result) : (s.ret r).sched = s.sched := by simp [State.ret]
@[simp] theorem State.ret_answers (s : State) (r : Result) : (s.ret r).answers = s.answers := by simp [State.ret]
@[simp] theorem State.ret_draws (s : State) (r : Result) : (s.ret r).draws = s.draws := by simp [State.ret]
@[simp] theorem State.ret_trace (s : State) (r : Result) : (s.ret r).trace = s.trace ++ [.ret s.turn r s.cmd.dst] := by simp [State.ret]
@[simp] theorem State.ret_halted (s : State) (r : Result) : (s.ret r).halted = s.halted := by simp [State.ret]
@[simp] theorem State.ret_fifo (s : State) (r : Result) : (s.ret r).fifo = s.fifo := by simp [State.ret]

/-! ### `takeAnswer` -/

@[simp] theorem State.takeAnswer_config (s : State) : (s.takeAnswer).config = s.config := by unfold State.takeAnswer; split <;> simp_all
@[simp] theorem State.takeAnswer_uarts (s : State) : (s.takeAnswer).uarts = s.uarts := by unfold State.takeAnswer; split <;> simp_all
@[simp] theorem State.takeAnswer_mem (s : State) : (s.takeAnswer).mem = s.mem := by unfold State.takeAnswer; split <;> simp_all
@[simp] theorem State.takeAnswer_fg (s : State) : (s.takeAnswer).fg = s.fg := by unfold State.takeAnswer; split <;> simp_all
@[simp] theorem State.takeAnswer_tick (s : State) : (s.takeAnswer).tick = s.tick := by unfold State.takeAnswer; split <;> simp_all
@[simp] theorem State.takeAnswer_turn (s : State) : (s.takeAnswer).turn = s.turn := by unfold State.takeAnswer; split <;> simp_all
@[simp] theorem State.takeAnswer_sched (s : State) : (s.takeAnswer).sched = s.sched := by unfold State.takeAnswer; split <;> simp_all
@[simp] theorem State.takeAnswer_answers (s : State) : (s.takeAnswer).answers = s.answers.tail := by unfold State.takeAnswer; split <;> simp_all
@[simp] theorem State.takeAnswer_trace (s : State) : (s.takeAnswer).trace = s.trace := by unfold State.takeAnswer; split <;> simp_all
@[simp] theorem State.takeAnswer_halted (s : State) : (s.takeAnswer).halted = s.halted := by unfold State.takeAnswer; split <;> simp_all
@[simp] theorem State.takeAnswer_fifo (s : State) : (s.takeAnswer).fifo = s.fifo := by unfold State.takeAnswer; split <;> simp_all

/-! ### `regRead` -/

@[simp] theorem State.regRead_config (s : State) (i : Nat) (r : Reg) : (s.regRead i r).config = s.config := by simp [State.regRead]
@[simp] theorem State.regRead_uarts (s : State) (i : Nat) (r : Reg) : (s.regRead i r).uarts = s.uarts := by simp [State.regRead]
@[simp] theorem State.regRead_mem (s : State) (i : Nat) (r : Reg) : (s.regRead i r).mem = s.mem := by simp [State.regRead]
@[simp] theorem State.regRead_fg (s : State) (i : Nat) (r : Reg) : (s.regRead i r).fg = s.fg := by simp [State.regRead]
@[simp] theorem State.regRead_tick (s : State) (i : Nat) (r : Reg) : (s.regRead i r).tick = s.tick := by simp [State.regRead]
@[simp] theorem State.regRead_turn (s : State) (i : Nat) (r : Reg) : (s.regRead i r).turn = s.turn := by simp [State.regRead]
@[simp] theorem State.regRead_sched (s : State) (i : Nat) (r : Reg) : (s.regRead i r).sched = s.sched := by simp [State.regRead]
@[simp] theorem State.regRead_answers (s : State) (i : Nat) (r : Reg) : (s.regRead i r).answers = s.answers.tail := by simp [State.regRead]
@[simp] theorem State.regRead_draws (s : State) (i : Nat) (r : Reg) : (s.regRead i r).draws = s.takeAnswer.draws := by simp [State.regRead]
@[simp] theorem State.regRead_trace (s : State) (i : Nat) (r : Reg) : (s.regRead i r).trace = s.trace ++ [.regRead i r s.answer] := by simp [State.regRead]
@[simp] theorem State.regRead_halted (s : State) (i : Nat) (r : Reg) : (s.regRead i r).halted = s.halted := by simp [State.regRead]
@[simp] theorem State.regRead_fifo (s : State) (i : Nat) (r : Reg) : (s.regRead i r).fifo = s.fifo := by simp [State.regRead]

/-! ### The queues and the running command -/

@[simp] theorem State.setQueue_queue_same (s : State) (p : Port) (q : List Command) : (s.setQueue p q).queue p = q := by
  cases p <;> rfl

theorem State.setQueue_queue_other {p p' : Port} (s : State) (q : List Command) (h : p' ≠ p) :
    (s.setQueue p q).queue p' = s.queue p' := by
  cases p <;> cases p' <;> first | rfl | exact absurd rfl h

/-- The queues of a state are its two queue fields. -/
theorem State.queue_congr {s t : State} (hf : s.fg = t.fg) (ht : s.tick = t.tick) (p : Port) : s.queue p = t.queue p := by
  cases p <;> assumption

theorem State.cmd_congr {s t : State} (hf : s.fg = t.fg) (ht : s.tick = t.tick) (hu : s.turn = t.turn) :
    s.cmd = t.cmd := by
  unfold State.cmd
  rw [hu, State.queue_congr hf ht]

/-- Replacing the running command replaces the head of the queue whose turn it is. -/
theorem State.setCmd_queue (s : State) (c : Command) :
    (s.setCmd c).queue s.turn = match s.queue s.turn with
      | [] => []
      | _ :: rest => c :: rest := by
  unfold State.setCmd
  split <;> simp_all

theorem State.setCmd_queue_other {p : Port} (s : State) (c : Command) (h : p ≠ s.turn) :
    (s.setCmd c).queue p = s.queue p := by
  unfold State.setCmd
  split
  · rfl
  · exact s.setQueue_queue_other _ h

/-- The other commands of the running command's port stay. -/
@[simp] theorem State.setCmd_queue_tail (s : State) (c : Command) :
    ((s.setCmd c).queue s.turn).tail = (s.queue s.turn).tail := by
  rw [State.setCmd_queue]
  split <;> simp_all

/-- The running command after it has been replaced, where there is one. -/
theorem State.setCmd_cmd {s : State} {c : Command} (h : s.queue s.turn ≠ []) : (s.setCmd c).cmd = c := by
  unfold State.cmd
  rw [State.setCmd_turn, State.setCmd_queue]
  cases hq : s.queue s.turn with
  | nil => exact absurd hq h
  | cons c' rest => rfl

/-! ### The instances -/

/-- Reading an instance after one has been replaced. -/
theorem State.setUart_uart (s : State) (i j : Nat) (u : Uart) :
    (s.setUart i u).uart j = if i = j ∧ i < s.uarts.length then u else s.uart j := by
  unfold State.uart State.setUart
  simp only [List.getD_eq_getElem?_getD, List.getElem?_set]
  by_cases h : i = j
  · subst h
    by_cases hl : i < s.uarts.length <;> simp [hl]
  · simp [h]

theorem State.setUart_uart_same {s : State} {i : Nat} (u : Uart) (h : i < s.uarts.length) :
    (s.setUart i u).uart i = u := by simp [State.setUart_uart, h]

theorem State.setUart_uart_other {s : State} {i j : Nat} (u : Uart) (h : i ≠ j) :
    (s.setUart i u).uart j = s.uart j := by simp [State.setUart_uart, h]

/-- An instance is its entry in the list of instances. -/
theorem State.uart_congr {s t : State} (h : s.uarts = t.uarts) (i : Nat) : s.uart i = t.uart i := by
  unfold State.uart
  rw [h]

theorem State.isReady_congr {s t : State} (h : s.uarts = t.uarts) : s.isReady = t.isReady := by
  unfold State.isReady
  rw [h]

theorem State.badInst_congr {s t : State} (h : s.config = t.config) (inst : Byte) : s.badInst inst = t.badInst inst := by
  unfold State.badInst
  rw [h]

end Sys2Proof.Machine
end

