-- ==== Sys2Proof/Laws/Ops.lean ====
section
/-! SUPPORT. What each shared operation can do, said once: the error report and its return, a failed validation, the
Uninitialized check, the steps of a string command, and the step of an agent. -/

namespace Sys2Proof.Machine

/-! ### Reports -/

@[simp] theorem State.emit_queue (s : State) (e : Event) (p : Port) : (s.emit e).queue p = s.queue p := by cases p <;> rfl

@[simp] theorem State.emit_cmd (s : State) (e : Event) : (s.emit e).cmd = s.cmd := State.cmd_congr rfl rfl rfl

@[simp] theorem State.report_queue (s : State) (k : ErrorKind) (inst op : Byte) (p : Port) :
    (s.report k inst op).queue p = s.queue p := by cases p <;> rfl

@[simp] theorem State.report_cmd (s : State) (k : ErrorKind) (inst op : Byte) : (s.report k inst op).cmd = s.cmd :=
  State.cmd_congr rfl rfl rfl

/-- A report the reporter returns from leaves the block running. -/
theorem State.report_halted_of_not_mem {s : State} {k : ErrorKind} {inst op : Byte}
    (h : s.reportOf k inst op ∉ s.config.halts) : (s.report k inst op).halted = s.halted := by simp [h]

/-- The command continues after the return, and does not where the reporter has not returned. -/
theorem State.resume_running {s : State} (f : State → State) (h : s.halted = none) : s.resume f = f s := by
  simp [State.resume, h]

theorem State.resume_halted {s : State} {r : Report} (f : State → State) (h : s.halted = some r) : s.resume f = s := by
  simp [State.resume, h]

/-- All that a return from a report can do. -/
theorem State.resume_cases (s : State) (f : State → State) :
    (s.halted = none ∧ s.resume f = f s) ∨ ((∃ r, s.halted = some r) ∧ s.resume f = s) := by
  cases h : s.halted with
  | none => exact .inl ⟨rfl, State.resume_running f h⟩
  | some r => exact .inr ⟨⟨r, rfl⟩, State.resume_halted f h⟩

/-- All that a failed validation can do: the report is made, and the command returns if the reporter does. -/
theorem State.paramError_cases (s : State) (inst op : Byte) (r : Result) :
    s.paramError inst op r = (s.report .param inst op).ret r ∨ s.paramError inst op r = s.report .param inst op := by
  rcases State.resume_cases (s.report .param inst op) (fun s => s.ret r) with ⟨_, h⟩ | ⟨_, h⟩
  · exact .inl h
  · exact .inr h

/-- A failed validation the reporter returns from. -/
theorem State.paramError_of_not_mem {s : State} {inst op : Byte} (r : Result)
    (h : s.reportOf .param inst op ∉ s.config.halts) (hs : s.halted = none) :
    s.paramError inst op r = (s.report .param inst op).ret r :=
  State.resume_running _ (by rw [State.report_halted_of_not_mem h, hs])

/-! ### Commands before INIT -/

theorem State.whenReady_ready {s : State} (run : State → Host.Outcome State Fault Refusal) (h : s.isReady = true) :
    s.whenReady run = run s := by simp [State.whenReady, h]

theorem State.whenReady_not_ready {s : State} (run : State → Host.Outcome State Fault Refusal) (h : s.isReady = false) :
    s.whenReady run = .refused .notInitialized := by simp [State.whenReady, h]

/-- A command that checks for Ready and answers a next state has run on a Ready block. -/
theorem State.whenReady_next {s t : State} {run : State → Host.Outcome State Fault Refusal}
    (h : s.whenReady run = .next t) : s.isReady = true ∧ run s = .next t := by
  unfold State.whenReady at h
  split at h
  · exact ⟨‹_›, h⟩
  · cases h

/-! ### String commands -/

/-- All that the first step of a string command can do. -/
theorem stringEntry_next {pv : Bool} {inst : Byte} {len : Len} {op : Byte} {extent : Nat} {s t : State}
    (h : stringEntry pv inst len op extent s = .next t) :
    (len.toNat = 0 ∧ t = s.ret (countOf 0)) ∨
    (len.toNat ≠ 0 ∧ s.badArgs pv inst = true ∧ t = s.paramError inst op (countOf 0)) ∨
    (len.toNat ≠ 0 ∧ s.badArgs pv inst = false ∧ len.toNat ≤ extent ∧ t = s.advance 0) := by
  unfold stringEntry at h
  split at h
  · cases h; exact .inl ⟨‹_›, rfl⟩
  · split at h
    · cases h; exact .inr (.inl ⟨‹_›, ‹_›, rfl⟩)
    · split at h
      · cases h
      · rename_i hb _
        cases h; exact .inr (.inr ⟨‹_›, Bool.not_eq_true _ ▸ hb, by omega, rfl⟩)

/-- All that follows the move of one byte. -/
theorem stringMoved_cases (len : Len) (k : Nat) (s : State) :
    (k + 1 < len.toNat ∧ stringMoved len k s = s.advance (k + 1)) ∨
    (len.toNat ≤ k + 1 ∧ stringMoved len k s = s.ret (countOf (k + 1))) := by
  unfold stringMoved
  split
  · exact .inl ⟨‹_›, rfl⟩
  · exact .inr ⟨by omega, rfl⟩

/-- All that one iteration of SEND_STRING can do. -/
theorem sendIteration_next {inst : Byte} {len : Len} {k : Nat} {s t : State}
    (h : sendIteration inst len k s = .next t) :
    t = s.ret (countOf k) ∨
    ∃ b tx, k < len.toNat ∧ s.cmd.src[k]? = some b ∧ (s.uart inst.toNat).tx.enq b = some tx ∧
      t = stringMoved len k (s.setTx inst.toNat tx) := by
  unfold sendIteration at h
  split at h
  · split at h
    · cases h
    · split at h
      · cases h; exact .inl rfl
      · cases h; exact .inr ⟨_, _, ‹_›, ‹_›, ‹_›, rfl⟩
  · cases h; exact .inl rfl

/-- All that one iteration of RECV_STRING can do. -/
theorem recvIteration_next {inst : Byte} {len : Len} {k : Nat} {s t : State}
    (h : recvIteration inst len k s = .next t) :
    t = s.ret (countOf k) ∨
    ∃ b rx, k < len.toNat ∧ (s.uart inst.toNat).rx.deq = some (b, rx) ∧
      t = stringMoved len k ((s.setRx inst.toNat rx).outWrite k b) := by
  unfold recvIteration at h
  split at h
  · split at h
    · cases h; exact .inl rfl
    · cases h; exact .inr ⟨_, _, ‹_›, ‹_›, rfl⟩
  · cases h; exact .inl rfl

/-! ### What every operation around a command's effect leaves alone -/

/-- The instances, the register space, the stand-alone buffer and the configuration are those of another state. -/
structure State.SameBlock (s t : State) : Prop where
  config : t.config = s.config
  uarts  : t.uarts = s.uarts
  mem    : t.mem = s.mem
  buf    : t.fifo.buf = s.fifo.buf

theorem State.SameBlock.refl (s : State) : s.SameBlock s := ⟨rfl, rfl, rfl, rfl⟩

theorem State.SameBlock.trans {s t u : State} (h : s.SameBlock t) (k : t.SameBlock u) : s.SameBlock u :=
  ⟨k.1.trans h.1, k.2.trans h.2, k.3.trans h.3, k.4.trans h.4⟩

theorem State.ret_same (s : State) (r : Result) : s.SameBlock (s.ret r) := by constructor <;> simp

theorem State.report_same (s : State) (k : ErrorKind) (inst op : Byte) : s.SameBlock (s.report k inst op) := by
  constructor <;> simp

theorem State.regRead_same (s : State) (i : Nat) (r : Reg) : s.SameBlock (s.regRead i r) := by constructor <;> simp

theorem State.outWrite_same (s : State) (k : Nat) (b : Byte) : s.SameBlock (s.outWrite k b) := by constructor <;> simp

theorem State.advance_same (s : State) (k : Nat) : s.SameBlock (s.advance k) := by constructor <;> simp

theorem State.resume_same {s : State} {f : State → State} (hf : ∀ s : State, s.SameBlock (f s)) : s.SameBlock (s.resume f) := by
  rcases State.resume_cases s f with ⟨_, h⟩ | ⟨_, h⟩
  · rw [h]; exact hf s
  · rw [h]; exact .refl s

theorem State.paramError_same (s : State) (inst op : Byte) (r : Result) : s.SameBlock (s.paramError inst op r) :=
  (s.report_same _ _ _).trans (State.resume_same fun s => s.ret_same r)

theorem reportIf_same (flag : Bool) (k : ErrorKind) (inst : Byte) (s : State) :
    s.SameBlock (reportIf flag k inst s) := by
  unfold reportIf
  split
  · exact s.report_same _ _ _
  · exact .refl s

theorem lineReports_same (v inst : Byte) (s : State) : s.SameBlock (lineReports v inst s) :=
  ((reportIf_same _ _ _ s).trans (State.resume_same fun s => reportIf_same _ _ _ s)).trans
    (State.resume_same fun s => reportIf_same _ _ _ s)

theorem stringMoved_same (len : Len) (k : Nat) (s : State) : s.SameBlock (stringMoved len k s) := by
  rcases stringMoved_cases len k s with ⟨_, h⟩ | ⟨_, h⟩
  · exact h ▸ s.advance_same _
  · exact h ▸ s.ret_same _

theorem State.fifoRet_same (s : State) (r : Result) : s.SameBlock (s.fifoRet r) := by constructor <;> simp

theorem State.fifoOutWrite_same (s : State) (b : Byte) : s.SameBlock (s.fifoOutWrite b) := by constructor <;> simp

/-! ### The step -/

/-- All that a step can do when it answers a next state. -/
theorem step_next {s t : State} (h : step s = .next t) :
    s.config.wf = true ∧ s.halted = none ∧
      ((s.nextAgent = none ∧ t = s) ∨ ∃ a u, s.nextAgent = some (a, u) ∧ agentStep a u = .next t) := by
  unfold step at h
  split at h
  · split at h
    · cases h
    · refine ⟨‹_›, ‹_›, ?_⟩
      split at h
      · cases h; exact .inl ⟨‹_›, rfl⟩
      · exact .inr ⟨_, _, ‹_›, h⟩
  · cases h

/-- A running block of an admitted configuration lets the next agent take the step. -/
theorem step_agent {s u : State} {a : Agent} (hw : s.config.wf = true) (hh : s.halted = none)
    (h : s.nextAgent = some (a, u)) : step s = agentStep a u := by simp [step, hw, hh, h]

theorem State.nextAgent_port {s : State} {p : Port} {rest : List Agent} (h : s.sched = .port p :: rest) :
    s.nextAgent = some (.port p, { s with sched := rest, turn := p }) := by simp [State.nextAgent, h]

theorem State.nextAgent_fifo {s : State} {rest : List Agent} (h : s.sched = .fifo :: rest) :
    s.nextAgent = some (.fifo, { s with sched := rest }) := by simp [State.nextAgent, h]

theorem State.nextAgent_hwReset {s : State} {rest : List Agent} (h : s.sched = .hwReset :: rest) :
    s.nextAgent = some (.hwReset, { s with sched := rest }) := by simp [State.nextAgent, h]

/-- The commands presented do not depend on the schedule or the turn. -/
@[simp] theorem State.queue_with_turn (s : State) (l : List Agent) (q p : Port) :
    ({ s with sched := l, turn := q } : State).queue p = s.queue p := by cases p <;> rfl

/-- A port's step decodes the first command presented on it and runs it. -/
theorem agentStep_port {s : State} {p : Port} {c : Command} {q : List Command} (h : s.queue p = c :: q) :
    agentStep (.port p) s = runWord (.d c.word) s := by simp [agentStep, State.fetch, h]

/-- The stand-alone buffer's port decodes the first word presented on it and runs it. -/
theorem agentStep_fifo {s : State} {w : FWord} {q : List FWord} (h : s.fifo.queue = w :: q) :
    agentStep .fifo s = runWord (.f w) s := by simp [agentStep, State.fetch, h]

/-- All that the choice of the next agent changes: the schedule, and whose turn it is. -/
theorem State.nextAgent_some {s u : State} {a : Agent} (h : s.nextAgent = some (a, u)) :
    ∃ rest, s.sched = a :: rest ∧
      ((∃ p, a = .port p ∧ u = { s with sched := rest, turn := p }) ∨
       ((∀ p, a ≠ .port p) ∧ u = { s with sched := rest })) := by
  unfold State.nextAgent at h
  split at h
  · cases h
  · cases h
    exact ⟨_, ‹_›, .inl ⟨_, rfl, rfl⟩⟩
  · cases h
    rename_i hne hs
    exact ⟨_, hs, .inr ⟨hne, rfl⟩⟩

/-- All that an agent's step can do when it answers a next state. -/
theorem agentStep_next {a : Agent} {s t : State} (h : agentStep a s = .next t) :
    (a = .hwReset ∧ s.insideCommand = false ∧ t = s.hardReset) ∨
    (s.fetch a = none ∧ t = s) ∨
    ∃ w i, s.fetch a = some w ∧ decode w = .ok i ∧ exec i s = .next t := by
  unfold agentStep at h
  split at h
  · split at h
    · cases h
    · cases h; exact .inl ⟨rfl, Bool.not_eq_true _ ▸ ‹_›, rfl⟩
  · split at h
    · cases h; exact .inr (.inl ⟨‹_›, rfl⟩)
    · unfold runWord at h
      split at h
      · cases h
      · exact .inr (.inr ⟨_, _, ‹_›, ‹_›, h⟩)

end Sys2Proof.Machine
end

