-- ==== Sys2Proof/Laws/Effects.lean ====
section
/-! SUPPORT. What an operation can do to the block, said once for all of them: `exec_effect` lists every change of the
instances, the register space and the stand-alone buffer that a next state can show. -/

namespace Sys2Proof.Machine

/-- Every way a command changes the instances, the register space and the stand-alone buffer. -/
inductive Effect (s t : State) : Prop where
  /-- Nothing of the block changes. -/
  | same (h : s.SameBlock t)
  /-- One byte enters a send buffer (SEND_BYTE, SEND_STRING). -/
  | txEnq (i : Byte) (x : Byte) (b : Buffer) (hr : s.isReady = true) (hi : (s.uart i.toNat).tx.enq x = some b)
      (h : (s.setTx i.toNat b).SameBlock t)
  /-- One byte leaves a send buffer and is lost (SEND_UPDATE). -/
  | txLost (i : Byte) (x : Byte) (b : Buffer) (hr : s.isReady = true) (hn : s.badInst i = false)
      (hi : (s.uart i.toNat).tx.deq = some (x, b)) (h : (s.setTx i.toNat b).SameBlock t)
  /-- One byte leaves a send buffer and is written to `DATA` (SEND_UPDATE). -/
  | txSent (i : Byte) (x : Byte) (b : Buffer) (hr : s.isReady = true) (hn : s.badInst i = false)
      (hi : (s.uart i.toNat).tx.deq = some (x, b)) (h : ((s.setTx i.toNat b).regWrite i.toNat .data x).SameBlock t)
  /-- One byte enters a receive buffer and the shadow (RECV_UPDATE). -/
  | rxPush (i : Byte) (x : Byte) (b : Buffer) (hr : s.isReady = true) (hi : (s.uart i.toNat).rx.enq x = some b)
      (h : (s.pushRx i.toNat b x).SameBlock t)
  /-- One byte leaves a receive buffer (RECV_BYTE, RECV_STRING). -/
  | rxDeq (i : Byte) (x : Byte) (b : Buffer) (hr : s.isReady = true) (hi : (s.uart i.toNat).rx.deq = some (x, b))
      (h : (s.setRx i.toNat b).SameBlock t)
  /-- A primitive on the stand-alone buffer. -/
  | fifo (b : Buffer) (hb : b = s.fifo.buf.create ∨ (∃ x, s.fifo.buf.enq x = some b) ∨ ∃ x, s.fifo.buf.deq = some (x, b))
      (h : (s.setFifoBuf b).SameBlock t)
  /-- The work of INIT. -/
  | init (h : (s.config.table.foldl initRecord s).SameBlock t)

theorem execCbCreate_effect {s t : State} (h : execCbCreate s = .next t) : Effect s t := by
  cases h
  exact .fifo _ (.inl rfl) (State.fifoRet_same _ _)

theorem execCbEnq_effect {byte : Byte} {s t : State} (h : execCbEnq byte s = .next t) : Effect s t := by
  unfold execCbEnq at h
  split at h
  · cases h; exact .same (s.fifoRet_same _)
  · cases h; exact .fifo _ (.inr (.inl ⟨_, ‹_›⟩)) (State.fifoRet_same _ _)

theorem execCbDeq_effect {s t : State} (h : execCbDeq s = .next t) : Effect s t := by
  unfold execCbDeq at h
  split at h
  · cases h; exact .same (s.fifoRet_same _)
  · cases h
    exact .fifo _ (.inr (.inr ⟨_, ‹_›⟩)) ((State.fifoOutWrite_same _ _).trans (State.fifoRet_same _ _))

theorem execCbPeekLast_effect {s t : State} (h : execCbPeekLast s = .next t) : Effect s t := by
  unfold execCbPeekLast at h
  split at h
  · cases h; exact .same (s.fifoRet_same _)
  · cases h; exact .same ((s.fifoOutWrite_same _).trans (State.fifoRet_same _ _))

theorem execInit_effect {pv : Bool} {s t : State} (h : execInit pv s = .next t) : Effect s t := by
  unfold execInit at h
  split at h
  · cases h; exact .init (State.ret_same _ _)
  · cases h; exact .same (s.paramError_same _ _ _)

theorem execSendUpdate_effect {inst : Byte} {s t : State} (h : execSendUpdate inst s = .next t) : Effect s t := by
  obtain ⟨hr, h⟩ := State.whenReady_next h
  split at h
  · cases h; exact .same (s.paramError_same _ _ _)
  · rename_i hn
    split at h
    · cases h; exact .same (s.ret_same _)
    · cases h
      rename_i b tx hd
      unfold sendDequeued
      split
      · refine .txSent inst b tx hr (by simpa using hn) hd ?_
        exact State.SameBlock.trans (by constructor <;> simp) (State.ret_same _ _)
      · exact .txLost inst b tx hr (by simpa using hn) hd (((State.regRead_same _ _ _).trans (State.report_same _ _ _ _)).trans
          (State.resume_same fun s => s.ret_same _))

theorem execRecvUpdate_effect {inst : Byte} {s t : State} (h : execRecvUpdate inst s = .next t) : Effect s t := by
  obtain ⟨hr, h⟩ := State.whenReady_next h
  split at h
  · cases h; exact .same (s.paramError_same _ _ _)
  · cases h
    unfold receiveSnapshot
    simp only
    split
    · have hv := (s.regRead_same inst.toNat .status).trans
        (lineReports_same s.answer inst (s.regRead inst.toNat .status))
      generalize lineReports s.answer inst (s.regRead inst.toNat .status) = v at hv ⊢
      rcases State.resume_cases v (receiveData (lineError s.config s.answer) inst) with ⟨_, hk⟩ | ⟨_, hk⟩
      · rw [hk]
        unfold receiveData
        simp only
        have hw := hv.trans (v.regRead_same inst.toNat .data)
        generalize v.regRead inst.toNat .data = w at hw ⊢
        split
        · exact .same (hw.trans (w.ret_same _))
        · split
          · exact .same (hw.trans (w.ret_same _))
          · rename_i b hb
            rw [State.uart_congr hw.uarts] at hb
            refine .rxPush inst _ b hr hb (State.SameBlock.trans ?_ (State.ret_same _ _))
            constructor <;> simp [hw.config, hw.uarts, hw.mem, hw.buf, State.uart_congr hw.uarts]
      · rw [hk]
        exact .same hv
    · exact .same ((s.regRead_same _ _).trans (State.ret_same _ _))

theorem execSendByte_effect {inst byte : Byte} {s t : State} (h : execSendByte inst byte s = .next t) : Effect s t := by
  obtain ⟨hr, h⟩ := State.whenReady_next h
  split at h
  · cases h; exact .same (s.paramError_same _ _ _)
  · split at h
    · cases h; exact .same (s.ret_same _)
    · cases h; exact .txEnq inst byte _ hr ‹_› (State.ret_same _ _)

theorem execRecvByte_effect {pv : Bool} {inst : Byte} {s t : State} (h : execRecvByte pv inst s = .next t) :
    Effect s t := by
  obtain ⟨hr, h⟩ := State.whenReady_next h
  split at h
  · cases h; exact .same (s.paramError_same _ _ _)
  · split at h
    · cases h
    · split at h
      · cases h; exact .same (s.ret_same _)
      · cases h
        exact .rxDeq inst _ _ hr ‹_› ((State.outWrite_same _ _ _).trans (State.ret_same _ _))

theorem execPeekLastByte_effect {pv : Bool} {inst : Byte} {s t : State} (h : execPeekLastByte pv inst s = .next t) :
    Effect s t := by
  obtain ⟨hr, h⟩ := State.whenReady_next h
  split at h
  · cases h; exact .same (s.paramError_same _ _ _)
  · split at h
    · cases h
    · split at h
      · cases h; exact .same (s.ret_same _)
      · cases h; exact .same ((s.outWrite_same _ _).trans (State.ret_same _ _))

/-- The first step of a string command changes nothing of the block. -/
theorem stringEntry_same {pv : Bool} {inst : Byte} {len : Len} {op : Byte} {extent : Nat} {s t : State}
    (h : stringEntry pv inst len op extent s = .next t) : s.SameBlock t := by
  rcases stringEntry_next h with ⟨_, rfl⟩ | ⟨_, _, rfl⟩ | ⟨_, _, _, rfl⟩
  · exact s.ret_same _
  · exact s.paramError_same _ _ _
  · exact s.advance_same _

theorem execSendString_effect {pv : Bool} {inst : Byte} {len : Len} {s t : State}
    (h : execSendString pv inst len s = .next t) : Effect s t := by
  obtain ⟨hr, h⟩ := State.whenReady_next h
  split at h
  · exact .same (stringEntry_same h)
  · rcases sendIteration_next h with rfl | ⟨b, tx, _, _, hb, rfl⟩
    · exact .same (s.ret_same _)
    · exact .txEnq inst b tx hr hb (stringMoved_same _ _ _)

theorem execRecvString_effect {pv : Bool} {inst : Byte} {len : Len} {s t : State}
    (h : execRecvString pv inst len s = .next t) : Effect s t := by
  obtain ⟨hr, h⟩ := State.whenReady_next h
  split at h
  · exact .same (stringEntry_same h)
  · rcases recvIteration_next h with rfl | ⟨b, rx, _, hb, rfl⟩
    · exact .same (s.ret_same _)
    · exact .rxDeq inst b rx hr hb ((State.outWrite_same _ _ _).trans (stringMoved_same _ _ _))

/-- All that an operation can do to the block when it answers a next state. -/
theorem exec_effect {i : Instr} {s t : State} (h : exec i s = .next t) : Effect s t := by
  cases i with
  | cbCreate => exact execCbCreate_effect h
  | cbEnq byte => exact execCbEnq_effect h
  | cbDeq => exact execCbDeq_effect h
  | cbPeekLast => exact execCbPeekLast_effect h
  | init pv => exact execInit_effect h
  | sendUpdate inst => exact execSendUpdate_effect h
  | recvUpdate inst => exact execRecvUpdate_effect h
  | sendByte inst byte => exact execSendByte_effect h
  | recvByte pv inst => exact execRecvByte_effect h
  | sendString pv inst len => exact execSendString_effect h
  | recvString pv inst len => exact execRecvString_effect h
  | peekLastByte pv inst => exact execPeekLastByte_effect h

end Sys2Proof.Machine
end

