-- ==== Sys2Proof/Laws/PerInstr.lean ====
section
/-! SUPPORT. The per-instruction family `Spelled`: the word of an operation is spelled as its row of spec/30_encoding.md
R94 and R95 says, `word & mask = match`. -/

namespace Sys2Proof.Laws.Spelled

/-- The mask and the match of an operation's row (spec/30_encoding.md R94, R95). -/
def row : Instr → Nat × Nat
  | .cbCreate => (0x3FF, 0x000)
  | .cbEnq _ => (0x300, 0x100)
  | .cbDeq => (0x3FF, 0x200)
  | .cbPeekLast => (0x3FF, 0x300)
  | .init _ => (0xFEFFFFFF, 0x00000000)
  | .sendUpdate _ => (0xFF00FFFF, 0x10000000)
  | .recvUpdate _ => (0xFF00FFFF, 0x20000000)
  | .sendByte _ _ => (0xFF00FF00, 0x30000000)
  | .recvByte _ _ => (0xFE00FFFF, 0x40000000)
  | .sendString _ _ _ => (0xFE000000, 0x50000000)
  | .recvString _ _ _ => (0xFE000000, 0x60000000)
  | .peekLastByte _ _ => (0xFE00FFFF, 0x70000000)

/-- A word spells a row. -/
def spells (mask pat : Nat) : CmdWord → Prop
  | .d w => w &&& BitVec.ofNat 32 mask = BitVec.ofNat 32 pat
  | .f w => w &&& BitVec.ofNat 10 mask = BitVec.ofNat 10 pat

/-- The encoder spells every operation as its row says. -/
def Statement (i : Instr) : Prop := spells (row i).1 (row i).2 (encode i)

/-- A mask keeps of an assembled word the fields it covers. -/
theorem packD_and (op : BitVec 4) (pv : Bool) (inst : Byte) (x : Len) (mo : BitVec 4) (mr : BitVec 3) (mp : BitVec 1)
    (mi : Byte) (mx : Len) :
    packD op pv inst x &&& (mo ++ mr ++ mp ++ mi ++ mx) =
      (op &&& mo) ++ (0#3 &&& mr) ++ (BitVec.ofBool pv &&& mp) ++ (inst &&& mi) ++ (x &&& mx) := by
  unfold packD
  erw [BitVec.and_append, BitVec.and_append, BitVec.and_append, BitVec.and_append]

/-- The mask of an operation whose only free field is `inst`. -/
theorem mask_inst : BitVec.ofNat 32 0xFF00FFFF = 15#4 ++ 7#3 ++ 1#1 ++ 0#8 ++ 0xFFFF#16 := by decide

/-- The mask of SEND_BYTE. -/
theorem mask_byte : BitVec.ofNat 32 0xFF00FF00 = 15#4 ++ 7#3 ++ 1#1 ++ 0#8 ++ (0xFF#8 ++ 0#8) := by decide

/-- The mask of an operation whose free fields are `PV` and `inst`. -/
theorem mask_pv_inst : BitVec.ofNat 32 0xFE00FFFF = 15#4 ++ 7#3 ++ 0#1 ++ 0#8 ++ 0xFFFF#16 := by decide

/-- The mask of a string command. -/
theorem mask_string : BitVec.ofNat 32 0xFE000000 = 15#4 ++ 7#3 ++ 0#1 ++ 0#8 ++ 0#16 := by decide

theorem cbCreate : Statement .cbCreate := rfl
theorem cbEnq (byte : Byte) : Statement (.cbEnq byte) := by
  show packF 1 byte &&& BitVec.ofNat 10 0x300 = BitVec.ofNat 10 0x100
  have hm : BitVec.ofNat 10 0x300 = 3#2 ++ 0#8 := by decide
  rw [hm, packF]
  erw [BitVec.and_append]
  simp
theorem cbDeq : Statement .cbDeq := rfl
theorem cbPeekLast : Statement .cbPeekLast := rfl
theorem init (pv : Bool) : Statement (.init pv) := by cases pv <;> rfl
theorem sendUpdate (inst : Byte) : Statement (.sendUpdate inst) := by
  show packD 1 false inst 0 &&& BitVec.ofNat 32 0xFF00FFFF = BitVec.ofNat 32 0x10000000
  rw [mask_inst, packD_and]
  simp
theorem recvUpdate (inst : Byte) : Statement (.recvUpdate inst) := by
  show packD 2 false inst 0 &&& BitVec.ofNat 32 0xFF00FFFF = BitVec.ofNat 32 0x20000000
  rw [mask_inst, packD_and]
  simp
theorem sendByte (inst byte : Byte) : Statement (.sendByte inst byte) := by
  show packD 3 false inst (0#8 ++ byte) &&& BitVec.ofNat 32 0xFF00FF00 = BitVec.ofNat 32 0x30000000
  have hb : 0#8 ++ byte &&& (0xFF#8 ++ 0#8) = 0#16 := by
    erw [BitVec.and_append]
    simp
  rw [mask_byte, packD_and, hb]
  simp
theorem recvByte (pv : Bool) (inst : Byte) : Statement (.recvByte pv inst) := by
  show packD 4 pv inst 0 &&& BitVec.ofNat 32 0xFE00FFFF = BitVec.ofNat 32 0x40000000
  rw [mask_pv_inst, packD_and]
  simp
theorem sendString (pv : Bool) (inst : Byte) (len : Len) : Statement (.sendString pv inst len) := by
  show packD 5 pv inst len &&& BitVec.ofNat 32 0xFE000000 = BitVec.ofNat 32 0x50000000
  rw [mask_string, packD_and]
  simp
theorem recvString (pv : Bool) (inst : Byte) (len : Len) : Statement (.recvString pv inst len) := by
  show packD 6 pv inst len &&& BitVec.ofNat 32 0xFE000000 = BitVec.ofNat 32 0x60000000
  rw [mask_string, packD_and]
  simp
theorem peekLastByte (pv : Bool) (inst : Byte) : Statement (.peekLastByte pv inst) := by
  show packD 7 pv inst 0 &&& BitVec.ofNat 32 0xFE00FFFF = BitVec.ofNat 32 0x70000000
  rw [mask_pv_inst, packD_and]
  simp

end Sys2Proof.Laws.Spelled
end

