-- ==== Sys2Proof/Laws/Returned.lean ====
section
/-! SUPPORT. The vocabulary of the statements: when two states are equal, field by field, and what `State.returned` and
`State.fifoReturned` are in terms of the model's own returns. -/

namespace Sys2Proof.Machine

/-- Two states with equal fields, their queues compared port by port, are equal. -/
theorem State.eq_of_fields {s t : State} (h1 : s.config = t.config) (h2 : s.uarts = t.uarts) (h3 : s.mem = t.mem)
    (h4 : ∀ p, s.queue p = t.queue p) (h5 : s.turn = t.turn) (h6 : s.sched = t.sched) (h7 : s.answers = t.answers)
    (h8 : s.draws = t.draws) (h9 : s.trace = t.trace) (h10 : s.halted = t.halted) (h11 : s.fifo = t.fifo) : s = t := by
  have hf := h4 .fg
  have ht := h4 .tick
  cases s
  cases t
  simp_all [State.queue]

section Returned

variable (s : State) (es : List Event) (r : Result) (dst : List Byte)

@[simp] theorem State.returned_config : (s.returned es r dst).config = s.config := by simp [State.returned]
@[simp] theorem State.returned_uarts : (s.returned es r dst).uarts = s.uarts := by simp [State.returned]
@[simp] theorem State.returned_mem : (s.returned es r dst).mem = s.mem := by simp [State.returned]
@[simp] theorem State.returned_turn : (s.returned es r dst).turn = s.turn := by simp [State.returned]
@[simp] theorem State.returned_sched : (s.returned es r dst).sched = s.sched := by simp [State.returned]
@[simp] theorem State.returned_answers : (s.returned es r dst).answers = s.answers := by simp [State.returned]
@[simp] theorem State.returned_draws : (s.returned es r dst).draws = s.draws := by simp [State.returned]
@[simp] theorem State.returned_halted : (s.returned es r dst).halted = s.halted := by simp [State.returned]
@[simp] theorem State.returned_fifo : (s.returned es r dst).fifo = s.fifo := by simp [State.returned]
@[simp] theorem State.returned_trace : (s.returned es r dst).trace = s.trace ++ es ++ [.ret s.turn r dst] := rfl

theorem State.returned_queue (p : Port) :
    (s.returned es r dst).queue p = if p = s.turn then (s.queue p).tail else s.queue p := by
  have h : ∀ t : State, ∀ l, ({ t with trace := l } : State).queue p = t.queue p := fun t l => by cases p <;> rfl
  unfold State.returned
  rw [h]
  split
  · rename_i hp
    rw [hp, State.setQueue_queue_same]
  · exact s.setQueue_queue_other _ ‹_›

theorem State.ret_queue (p : Port) :
    (s.ret r).queue p = if p = s.turn then (s.queue p).tail else s.queue p := by
  unfold State.ret
  rw [State.emit_queue]
  split
  · rename_i hp
    rw [hp, State.setQueue_queue_same]
  · exact s.setQueue_queue_other _ ‹_›

/-- The model's return is the statements' `returned`. -/
theorem State.ret_eq_returned : s.ret r = s.returned [] r s.cmd.dst := by
  apply State.eq_of_fields <;> simp [State.ret_queue, State.returned_queue]

/-- A return after events the command has made. -/
theorem State.ret_eq_returned_of {s t : State} {es : List Event} (r : Result) (hq : ∀ p, t.queue p = s.queue p)
    (hu : t.turn = s.turn) (ht : t.trace = s.trace ++ es) :
    t.ret r = { t with trace := s.trace }.returned es r s.cmd.dst := by
  have hc : t.cmd = s.cmd := by simp [State.cmd, hu, hq]
  have h : ∀ l p, ({ t with trace := l } : State).queue p = t.queue p := fun l p => by cases p <;> rfl
  apply State.eq_of_fields <;> simp [State.ret_queue, State.returned_queue, h, ht, hc]

end Returned

@[simp] theorem State.setUart_queue (s : State) (i : Nat) (u : Uart) (p : Port) : (s.setUart i u).queue p = s.queue p := by
  cases p <;> rfl

@[simp] theorem State.setTx_queue (s : State) (i : Nat) (b : Buffer) (p : Port) : (s.setTx i b).queue p = s.queue p := by
  cases p <;> rfl

@[simp] theorem State.setRx_queue (s : State) (i : Nat) (b : Buffer) (p : Port) : (s.setRx i b).queue p = s.queue p := by
  cases p <;> rfl

@[simp] theorem State.pushRx_queue (s : State) (i : Nat) (b : Buffer) (d : Byte) (p : Port) :
    (s.pushRx i b d).queue p = s.queue p := by cases p <;> rfl

@[simp] theorem State.regWrite_queue (s : State) (i : Nat) (r : Reg) (v : Byte) (p : Port) :
    (s.regWrite i r v).queue p = s.queue p := by cases p <;> rfl

@[simp] theorem State.takeAnswer_queue (s : State) (p : Port) : s.takeAnswer.queue p = s.queue p := by
  unfold State.takeAnswer
  split <;> cases p <;> rfl

@[simp] theorem State.regRead_queue (s : State) (i : Nat) (r : Reg) (p : Port) :
    (s.regRead i r).queue p = s.queue p := by simp [State.regRead]

@[simp] theorem State.setTx_cmd (s : State) (i : Nat) (b : Buffer) : (s.setTx i b).cmd = s.cmd :=
  State.cmd_congr rfl rfl rfl

@[simp] theorem State.setRx_cmd (s : State) (i : Nat) (b : Buffer) : (s.setRx i b).cmd = s.cmd :=
  State.cmd_congr rfl rfl rfl

@[simp] theorem State.pushRx_cmd (s : State) (i : Nat) (b : Buffer) (d : Byte) : (s.pushRx i b d).cmd = s.cmd :=
  State.cmd_congr rfl rfl rfl

@[simp] theorem State.regWrite_cmd (s : State) (i : Nat) (r : Reg) (v : Byte) : (s.regWrite i r v).cmd = s.cmd :=
  State.cmd_congr rfl rfl rfl

@[simp] theorem State.takeAnswer_cmd (s : State) : s.takeAnswer.cmd = s.cmd := by simp [State.cmd]

@[simp] theorem State.regRead_cmd (s : State) (i : Nat) (r : Reg) : (s.regRead i r).cmd = s.cmd := by simp [State.cmd]

/-- The running command after an output byte: its destination is written, where there is a command. -/
theorem State.outWrite_cmd_dst (s : State) (k : Nat) (b : Byte) : (s.outWrite k b).cmd.dst = s.cmd.dst.set k b := by
  unfold State.outWrite
  rw [State.emit_cmd]
  by_cases h : s.queue s.turn = []
  · have hn : s.cmd = .nothing := by simp [State.cmd, h]
    simp [State.setCmd, h, hn, Command.nothing]
  · rw [State.setCmd_cmd h]

/-- An output byte leaves the commands behind the running one. -/
theorem State.outWrite_queue_tail (s : State) (k : Nat) (b : Byte) :
    ((s.outWrite k b).queue s.turn).tail = (s.queue s.turn).tail := by simp [State.outWrite]

theorem State.outWrite_queue_other {p : Port} (s : State) (k : Nat) (b : Byte) (h : p ≠ s.turn) :
    (s.outWrite k b).queue p = s.queue p := by simp [State.outWrite, State.setCmd_queue_other _ _ h]

end Sys2Proof.Machine
end

