-- ==== Sys2Proof/Laws/WellFormed.lean ====
section
/-! SUPPORT. What an admitted configuration is: all the checks at once, and the windows with the default offsets. -/

namespace Sys2Proof

/-- A configuration is admitted exactly when every check holds. -/
theorem Config.wf_iff (c : Config) : c.wf = true ↔
    c.nInstOk = true ∧ c.capsOk = true ∧ c.clockOk = true ∧ c.tableLenOk = true ∧ c.idsInRange = true ∧
    c.idsDistinct = true ∧ c.baudsPositive = true ∧ c.divisorsOk = true ∧ c.statusBitsOk = true ∧ c.offsetsOk = true ∧
    c.enLayoutOk = true ∧ c.fmtLayoutOk = true ∧ c.windowsOk = true ∧ c.policiesOk = true := by
  simp [Config.wf]

/-- With the default offsets the windows `base .. base + 5` are apart exactly as spec/20_memory.md R61 says. -/
theorem windowsApart_standard (p q : InstParams) :
    windowsApart .standard p q ↔ p.base + 5 < q.base ∨ q.base + 5 < p.base := by
  simp only [windowsApart, RegOffsets.all, RegOffsets.standard, List.forall_mem_cons, List.not_mem_nil,
    false_imp_iff, implies_true, and_true]
  omega

end Sys2Proof
end

