-- ==== Sys2Proof/Tests/Slice0.lean ====
section
/-! SUPPORT. The model's own tests. Expected values come from spec/95_test_vectors.md (V1 to V39, P1 to P5), from the
worked tables of spec/41_init.md and from words written out of the encodings of spec/30_encoding.md. The witnesses at
the end show, for every statement that has hypotheses, a state and operands that meet all of them. -/

namespace Sys2Proof.Tests

open Sys2Proof Sys2Proof.Machine

/-! ## Well-formedness -/

theorem test_wf_standard : Config.standard.wf = true := by decide

theorem test_wf_command_on_fifo_port : (Instr.sendByte 0 0x41).wfOn .f = false := by decide

theorem test_wf_primitive_on_driver_port : (Instr.cbEnq 0x41).wfOn .d = false := by decide

theorem test_wf_on_own_port : (Instr.cbEnq 0x41).wfOn .f = true ∧ (Instr.sendByte 0 0x41).wfOn .d = true := by decide

theorem test_wf_no_instance : ({ Config.standard with params := [] } : Config).nInstOk = false := by decide

theorem test_wf_capacity_zero :
    ({ Config.standard with params := [{ capTx := 0, capRx := 4, base := 0 }] } : Config).capsOk = false := by decide

theorem test_wf_capacity_too_large :
    ({ Config.standard with params := [{ capTx := 4, capRx := 65536, base := 0 }] } : Config).capsOk = false := by decide

theorem test_wf_clock_zero : ({ Config.standard with fClk := 0 } : Config).clockOk = false := by decide

theorem test_wf_table_short : ({ Config.standard with table := [] } : Config).tableLenOk = false := by decide

/-- A record of the table, with the format of V10. -/
def rec (i : Nat) (baud : BitVec 32) : CfgRecord :=
  { instanceId := i, baudRate := baud, stopBits := .one, parity := .none }

theorem test_wf_id_out_of_range : ({ Config.standard with table := [rec 1 9600] } : Config).idsInRange = false := by
  decide

theorem test_wf_id_twice : ({ Config.standard with table := [rec 0 9600, rec 0 9600] } : Config).idsDistinct = false := by
  decide

theorem test_wf_baud_zero : ({ Config.standard with table := [rec 0 0] } : Config).baudsPositive = false := by decide

/-- V17: the quotient is 0 and the divisor -1. -/
theorem test_wf_divisor_negative : ({ Config.standard with table := [rec 0 2000000] } : Config).divisorsOk = false := by
  decide

theorem test_wf_divisor_too_large :
    ({ Config.standard with fClk := 1048592, table := [rec 0 1] } : Config).divisorsOk = false ∧
    ({ Config.standard with fClk := 1048591, table := [rec 0 1] } : Config).divisorsOk = true := by decide

theorem test_wf_status_bits_equal :
    ({ Config.standard with statusBits := { StatusBits.standard with txe := 7 } } : Config).statusBitsOk = false := by
  decide

theorem test_wf_offsets_equal :
    ({ Config.standard with offsets := { RegOffsets.standard with baudH := 4 } } : Config).offsetsOk = false := by decide

theorem test_wf_en_bits_equal :
    ({ Config.standard with enLayout := { rxen := 1, txen := 1 } } : Config).enLayoutOk = false := by decide

/-- `STOP` inside `PAR`, and inside `CHSZ`. -/
theorem test_wf_fmt_fields_overlap :
    ({ Config.standard with fmtLayout := { par := 0, stop := 1, chsz := 4 } } : Config).fmtLayoutOk = false ∧
    ({ Config.standard with fmtLayout := { par := 0, stop := 4, chsz := 4 } } : Config).fmtLayoutOk = false ∧
    ({ Config.standard with fmtLayout := { par := 0, stop := 3, chsz := 4 } } : Config).fmtLayoutOk = true := by decide

/-- Each check is one of the configuration's. -/
theorem test_wf_refuses_layouts :
    ({ Config.standard with offsets := { RegOffsets.standard with baudH := 4 } } : Config).wf = false ∧
    ({ Config.standard with enLayout := { rxen := 1, txen := 1 } } : Config).wf = false ∧
    ({ Config.standard with fmtLayout := { par := 0, stop := 4, chsz := 4 } } : Config).wf = false ∧
    ({ Config.standard with offsets := { data := 12, status := 11, en := 10, fmt := 32, baudL := 9, baudH := 33 } } :
      Config).wf = true := by decide

theorem test_wf_windows_overlap :
    ({ Config.standard with params :=
      [{ capTx := 4, capRx := 4, base := 0 }, { capTx := 4, capRx := 4, base := 5 }] } : Config).windowsOk = false ∧
    ({ Config.standard with params :=
      [{ capTx := 4, capRx := 4, base := 0 }, { capTx := 4, capRx := 4, base := 6 }] } : Config).windowsOk = true := by
  decide

theorem test_wf_policy_block : ({ Config.standard with txBusyPolicy := .block } : Config).policiesOk = false ∧
    ({ Config.standard with rxFullPolicy := .reportAndDrop } : Config).policiesOk = false := by decide

/-! ## Decoding, word by word -/

theorem test_decode_cbCreate : decode (.f 0b00_00000000#10) = .ok .cbCreate := by decide
theorem test_decode_cbEnq : decode (.f 0b01_10100101#10) = .ok (.cbEnq 0xA5) := by decide
theorem test_decode_cbDeq : decode (.f 0b10_00000000#10) = .ok .cbDeq := by decide
theorem test_decode_cbPeekLast : decode (.f 0b11_00000000#10) = .ok .cbPeekLast := by decide
theorem test_decode_init : decode (.d 0b0000_000_1_00000000_0000000000000000#32) = .ok (.init true) := by decide
theorem test_decode_sendUpdate : decode (.d 0b0001_000_0_00000001_0000000000000000#32) = .ok (.sendUpdate 1) := by decide
theorem test_decode_recvUpdate : decode (.d 0b0010_000_0_11111111_0000000000000000#32) = .ok (.recvUpdate 255) := by
  decide
theorem test_decode_sendByte : decode (.d 0b0011_000_0_00000001_00000000_01000001#32) = .ok (.sendByte 1 0x41) := by
  decide
theorem test_decode_recvByte : decode (.d 0b0100_000_0_00000011_0000000000000000#32) = .ok (.recvByte false 3) := by
  decide
theorem test_decode_sendString :
    decode (.d 0b0101_000_1_00000010_0000000100000110#32) = .ok (.sendString true 2 0x106) := by decide
theorem test_decode_recvString :
    decode (.d 0b0110_000_0_00001001_1000000000000001#32) = .ok (.recvString false 9 0x8001) := by decide
theorem test_decode_peekLastByte : decode (.d 0b0111_000_1_00000011_0000000000000000#32) = .ok (.peekLastByte true 3) := by
  decide

/-- V7. -/
theorem test_illegal_f : decode (.f 0x2FF#10) = .error .byteOnByteless ∧ decode (.f 0x001#10) = .error .byteOnByteless ∧
    decode (.f 0x3A5#10) = .error .byteOnByteless := by decide

/-- V20, V24. -/
theorem test_illegal_init_update : decode (.d 0x00010000#32) = .error .mustBeZero ∧
    decode (.d 0x01000001#32) = .error .mustBeZero ∧ decode (.d 0x02000000#32) = .error .reservedBits ∧
    decode (.d 0x11000000#32) = .error .pointerOnPointerless ∧ decode (.d 0x10000001#32) = .error .mustBeZero ∧
    decode (.d 0x21000000#32) = .error .pointerOnPointerless := by decide

/-- V37. -/
theorem test_illegal_d : decode (.d 0x80000000#32) = .error .reservedOpcode ∧
    decode (.d 0xF0000000#32) = .error .reservedOpcode ∧ decode (.d 0x32000041#32) = .error .reservedBits ∧
    decode (.d 0x30000141#32) = .error .mustBeZero ∧ decode (.d 0x41000001#32) = .error .mustBeZero ∧
    decode (.d 0x71000100#32) = .error .mustBeZero := by decide

theorem test_decode_table_word : decodeTableWord 10 0x1A5 = some (.cbEnq 0xA5) ∧
    decodeTableWord 16 0x200 = some .cbDeq ∧ decodeTableWord 32 0x30010041 = some (.sendByte 1 0x41) ∧
    decodeTableWord 32 0x80000000 = none := by decide

/-! ## The divisor and the frame-format byte (spec/41_init.md R141, R142; V10 to V17) -/

theorem test_divisor : divisor 16000000 9600 = 0x0067 ∧ divisor 8000000 9600 = 0x0033 ∧
    divisor 16000000 115200 = 0x0007 ∧ divisor 14745600 9600 = 0x005F ∧ divisor 16000000 300 = 0x0D04 ∧
    divisor 1000000 2400 = 0x0019 ∧ divisor 16000000 1000000 = 0x0000 := by decide

theorem test_divisor_negative : divisorExact 16000000 2000000 = -1 := by decide

theorem test_divisor_bytes : divisorLow 0x0D04 = 0x04 ∧ divisorHigh 0x0D04 = 0x0D := by decide

theorem test_fmt : fmtByte .standard .two .even = 0x85 ∧ fmtByte .standard .one .odd = 0x82 ∧
    enByte .standard = 0x03 := by decide

/-- Other positions than the defaults (spec/00_scope.md R10), the bytes written out by hand: `CHSZ` in bits 3:0, `STOP` in
bit 7, `PAR` in bits 5:4; `RXEN` in bit 4 and `TXEN` in bit 3. -/
theorem test_layouts : fmtByte { par := 4, stop := 7, chsz := 0 } .two .odd = 0b1_0_10_1000#8 ∧
    enByte { rxen := 4, txen := 3 } = 0b00011000#8 := by decide

/-- spec/60_exceptions.md R213, its example. -/
theorem test_report_word :
    reportWord { moduleId := 1, instanceId := 0, operationId := 1, kind := .tbNempty } = 0x01000102 := by decide

/-! ## Small states -/

/-- An empty buffer of capacity 4. -/
def bEmpty : Buffer := { st := [0, 0, 0, 0], head := 0, tail := 0, count := 0 }

/-- The receive buffer of V27a. -/
def bTwo : Buffer := { st := [0x41, 0x43, 0, 0], head := 0, tail := 2, count := 2 }

/-- The send buffer of V21a. -/
def bFull : Buffer := { st := [1, 2, 3, 4], head := 0, tail := 0, count := 4 }

/-- The buffer of V5. -/
def bWrap : Buffer := { st := [0x11, 0x22, 0x33, 0x44], head := 3, tail := 1, count := 2 }

/-- A command with four source bytes and four destination positions. -/
def cmdOf (w : Word) (progress : Option Nat) : Command :=
  { word := w, src := [0x41, 0x42, 0x43, 0x44], dst := [0xD0, 0xD1, 0xD2, 0xD3], progress := progress }

/-- A Ready block with the configuration of P1, with these buffers, these scripted answers, and this command running on
the foreground port. -/
def rdy (tx rx : Buffer) (lastRx : Byte) (answers : List Byte) (c : Command) : State :=
  { State.reset with
    uarts := [{ tx := tx, rx := rx, baud := 9600, stop := .one, par := .none, lastRx := lastRx, ready := true }]
    mem := [(2, 0x03), (3, 0x80), (4, 0x67), (5, 0x00)]
    fg := [c]
    answers := answers }

/-- A block with this stand-alone buffer and this word presented on its port, whose step is next. -/
def fifoState (b : Buffer) (w : FWord) : State :=
  { State.reset with fifo := { buf := b, queue := [w], out := 0xEE }, sched := [.fifo] }

/-- The next state satisfies `p`. -/
def holds (o : Host.Outcome State Fault Refusal) (p : State → Bool) : Bool :=
  match o with
  | .next t => p t
  | .fault _ => false
  | .refused _ => false

/-! ## The primitives -/

/-- V6. -/
theorem test_cbCreate : holds (exec .cbCreate (fifoState bWrap 0x000)) (fun t =>
    t.fifo.buf == { bWrap with head := 0, tail := 0, count := 0 } && t.trace == [.fifoRet .none]) = true := by decide

/-- R122's example: the tail wraps. -/
theorem test_cbEnq : holds (exec (.cbEnq 0x5A) (fifoState { bEmpty with head := 3, tail := 3 } 0x15A)) (fun t =>
    t.fifo.buf == { st := [0, 0, 0, 0x5A], head := 3, tail := 0, count := 1 } && t.trace == [.fifoRet (.ok true)]) =
    true := by decide

/-- V2 step 4, with capacity 4. -/
theorem test_cbEnq_full : holds (exec (.cbEnq 0x44) (fifoState bFull 0x144)) (fun t =>
    t.fifo.buf == bFull && t.trace == [.fifoRet (.ok false)]) = true := by decide

/-- R123's example. -/
theorem test_cbDeq : holds (exec .cbDeq (fifoState bWrap 0x200)) (fun t =>
    t.fifo.buf == { bWrap with head := 0, count := 1 } && t.fifo.out == 0x44 &&
      t.trace == [.fifoOut 0 0x44, .fifoRet (.ok true)]) = true := by decide

/-- V4. -/
theorem test_cbDeq_empty : holds (exec .cbDeq (fifoState bEmpty 0x200)) (fun t =>
    t.fifo.buf == bEmpty && t.fifo.out == 0xEE && t.trace == [.fifoRet (.ok false)]) = true := by decide

/-- V5. -/
theorem test_cbPeekLast : holds (exec .cbPeekLast (fifoState bWrap 0x300)) (fun t =>
    t.fifo.buf == bWrap && t.trace == [.fifoOut 0 0x11, .fifoRet (.ok true)]) = true := by decide

/-- V2 step 5, with capacity 4: behind a tail of 0 stands the last byte. -/
theorem test_cbPeekLast_wrap : holds (exec .cbPeekLast (fifoState bFull 0x300)) (fun t =>
    t.fifo.buf == bFull && t.trace == [.fifoOut 0 4, .fifoRet (.ok true)]) = true := by decide

/-! ## The driver commands -/

/-- V19. -/
theorem test_init_again : holds (exec (.init true) (rdy { bFull with head := 1, count := 3 } bTwo 0x43 []
      (cmdOf 0x01000000 none))) (fun t =>
    (t.uart 0).tx == { bFull with head := 0, tail := 0, count := 0 } && (t.uart 0).lastRx == 0x43 &&
      t.trace == [.regWrite 0 .baudL 0x67, .regWrite 0 .baudH 0x00, .regWrite 0 .fmt 0x80, .regWrite 0 .en 0x03,
        .ret .fg .none [0xD0, 0xD1, 0xD2, 0xD3]]) = true := by decide

/-- The flag outputs `tx.full`, `tx.empty`, `rx.full`, `rx.empty` before and after INIT (spec/10_state.md R23, R41). -/
theorem test_flag_outputs : (rdy bFull bTwo 0x43 [] (cmdOf 0x01000000 none)).flagOutputs 0 = (true, false, false, false) ∧
    holds (exec (.init true) (rdy bFull bTwo 0x43 [] (cmdOf 0x01000000 none)))
      (fun t => t.flagOutputs 0 == (false, true, false, true)) = true := by decide

/-- V18. -/
theorem test_init_absent : holds (exec (.init false) State.reset) (fun t =>
    t.trace == [.report { moduleId := 1, instanceId := 0, operationId := 0, kind := .param }, .ret .fg .none []] &&
      t.isReady == false) = true := by decide

/-- V21a. -/
theorem test_sendUpdate : holds (exec (.sendUpdate 0) (rdy bFull bEmpty 0 [0x20] (cmdOf 0x10000000 none))) (fun t =>
    (t.uart 0).tx == { bFull with head := 1, count := 3 } && t.mem.read 0 == some 1 &&
      accessesOf t.trace == [.regRead 0 .status 0x20, .regWrite 0 .data 1]) = true := by decide

/-- V21b. -/
theorem test_sendUpdate_busy : holds (exec (.sendUpdate 0) (rdy bFull bEmpty 0 [0x00] (cmdOf 0x10000000 none))) (fun t =>
    (t.uart 0).tx == { bFull with head := 1, count := 3 } && t.mem.read 0 == none &&
      (reportsOf t.trace).map reportWord == [0x01000102]) = true := by decide

/-- V23a. -/
theorem test_recvUpdate : holds (exec (.recvUpdate 0) (rdy bEmpty bEmpty 0 [0x80, 0x41] (cmdOf 0x20000000 none)))
    (fun t => (t.uart 0).rx == { st := [0x41, 0, 0, 0], head := 0, tail := 1, count := 1 } &&
      (t.uart 0).lastRx == 0x41 && t.answers == []) = true := by decide

/-- V23d. -/
theorem test_recvUpdate_errors : holds (exec (.recvUpdate 0) (rdy bEmpty bEmpty 0 [0x9C, 0x99] (cmdOf 0x20000000 none)))
    (fun t => (t.uart 0).rx == bEmpty && (reportsOf t.trace).map reportWord == [0x01000203, 0x01000204, 0x01000205] &&
      accessesOf t.trace == [.regRead 0 .status 0x9C, .regRead 0 .data 0x99]) = true := by decide

/-- V25a. -/
theorem test_sendByte : holds (exec (.sendByte 0 0x41) (rdy bEmpty bEmpty 0 [] (cmdOf 0x30000041 none))) (fun t =>
    (t.uart 0).tx == { st := [0x41, 0, 0, 0], head := 0, tail := 1, count := 1 } &&
      t.trace == [.ret .fg (.ok true) [0xD0, 0xD1, 0xD2, 0xD3]]) = true := by decide

/-- V26. -/
theorem test_sendByte_param : holds (exec (.sendByte 1 0x41) (rdy bEmpty bEmpty 0 [] (cmdOf 0x30010041 none))) (fun t =>
    (t.uart 0).tx == bEmpty && (reportsOf t.trace).map reportWord == [0x01010301]) = true := by decide

/-- V27a. -/
theorem test_recvByte : holds (exec (.recvByte true 0) (rdy bEmpty bTwo 0x43 [] (cmdOf 0x41000000 none))) (fun t =>
    (t.uart 0).rx == { bTwo with head := 1, count := 1 } &&
      t.trace == [.outWrite .fg 0 0x41, .ret .fg (.ok true) [0x41, 0xD1, 0xD2, 0xD3]]) = true := by decide

/-- V27d. -/
theorem test_recvByte_param : holds (exec (.recvByte false 3) (rdy bEmpty bTwo 0x43 [] (cmdOf 0x40030000 none)))
    (fun t => (t.uart 0).rx == bTwo && (reportsOf t.trace).map reportWord == [0x01030401]) = true := by decide

/-- V31, its last iteration: the buffer is full at `Src[2]`. -/
theorem test_sendString_full : holds (exec (.sendString true 0 3) (rdy bFull bEmpty 0 [] (cmdOf 0x51000003 (some 2))))
    (fun t => (t.uart 0).tx == bFull && t.fg == [] && t.trace == [.ret .fg (.count 2) [0xD0, 0xD1, 0xD2, 0xD3]]) =
    true := by decide

/-- V34a. -/
theorem test_sendString_zero : holds (exec (.sendString true 5 0) (rdy bFull bEmpty 0 [] (cmdOf 0x51050000 none)))
    (fun t => t.trace == [.ret .fg (.count 0) [0xD0, 0xD1, 0xD2, 0xD3]]) = true := by decide

/-- V35b, its last iteration. -/
theorem test_recvString : holds (exec (.recvString true 0 1) (rdy bEmpty bTwo 0x43 [] (cmdOf 0x61000001 (some 0))))
    (fun t => (t.uart 0).rx == { bTwo with head := 1, count := 1 } &&
      t.trace == [.outWrite .fg 0 0x41, .ret .fg (.count 1) [0x41, 0xD1, 0xD2, 0xD3]]) = true := by decide

/-- V35d. -/
theorem test_recvString_param : holds (exec (.recvString false 0 2) (rdy bEmpty bTwo 0x43 [] (cmdOf 0x60000002 none)))
    (fun t => (t.uart 0).rx == bTwo && (reportsOf t.trace).map reportWord == [0x01000601]) = true := by decide

/-- V36a. -/
theorem test_peekLastByte : holds (exec (.peekLastByte true 0) (rdy bEmpty bTwo 0x43 [] (cmdOf 0x71000000 none)))
    (fun t => (t.uart 0).rx == bTwo &&
      t.trace == [.outWrite .fg 0 0x43, .ret .fg (.ok true) [0x43, 0xD1, 0xD2, 0xD3]]) = true := by decide

/-- V36b: the shadow byte is not consulted. -/
theorem test_peekLastByte_empty : holds (exec (.peekLastByte true 0)
      (rdy bEmpty { bTwo with head := 2, count := 0 } 0x43 [] (cmdOf 0x71000000 none)))
    (fun t => t.trace == [.ret .fg (.ok false) [0xD0, 0xD1, 0xD2, 0xD3]]) = true := by decide

/-- V38. -/
theorem test_uninitialized : step (State.reset.withFetchWord 32 0x30000041) = .refused .notInitialized := by rfl

/-- A table word is the next step's command. -/
theorem test_withFetchWord : holds (step (State.reset.withFetchWord 32 0x01000000)) (fun t => t.isReady) = true ∧
    holds (step (State.reset.withFetchWord 16 0x1A5)) (fun t => t.fifo.buf.count == 1) = true := by decide

/-- The memory keeps its canonical form. -/
theorem test_memory : (Memory.write (Memory.write (Memory.write [] 7 1) 3 2) 7 5) = [(3, 2), (7, 5)] := by decide

/-! ## Witnesses: states and operands that meet the hypotheses of the statements, one for each clause -/

theorem bEmpty_wf : bEmpty.WF := ⟨by decide, by decide, by decide, by decide⟩
theorem bTwo_wf : bTwo.WF := ⟨by decide, by decide, by decide, by decide⟩
theorem bFull_wf : bFull.WF := ⟨by decide, by decide, by decide, by decide⟩
theorem bWrap_wf : bWrap.WF := ⟨by decide, by decide, by decide, by decide⟩

/-- The small Ready states meet the invariant. -/
theorem rdy_inv {tx rx : Buffer} {last : Byte} (answers : List Byte) (c : Command) (htx : tx.WF) (hrx : rx.WF)
    (hc : tx.cap = 4 ∧ rx.cap = 4) (hs : rx.count ≠ 0 → last = rx.st.getD rx.behindTail 0) :
    (rdy tx rx last answers c).Inv := by
  have h0 : ∀ i, i < (rdy tx rx last answers c).config.nInst → i = 0 := fun i hi => by
    simpa [rdy, State.reset, State.resetWith, Config.nInst, Config.standard] using hi
  have ht : ∀ r ∈ (rdy tx rx last answers c).config.table, r = rec 0 9600 := fun r hr => by
    simpa [rdy, State.reset, State.resetWith, Config.standard, rec] using hr
  refine { config_wf := test_wf_standard, length := rfl, fits := ?_, fifo_fits := rfl, ready_eq := ?_,
           mem_wf := show Memory.wf [(2, 0x03), (3, 0x80), (4, 0x67), (5, 0x00)] by decide, uart_wf := ?_,
           configured := ?_, programmed := ?_ }
  · intro i hi
    obtain rfl := h0 i hi
    exact hc
  · intro i hi
    obtain rfl := h0 i hi
    rfl
  · intro _ i hi
    obtain rfl := h0 i hi
    exact ⟨htx, hrx, hs⟩
  · intro _ r hr
    obtain rfl := ht r hr
    exact ⟨rfl, rfl, rfl⟩
  · intro _ r hr
    obtain rfl := ht r hr
    exact ⟨congrArg some (by decide : 0x67#8 = divisorLow (divisor 16000000 9600)),
      congrArg some (by decide : 0x00#8 = divisorHigh (divisor 16000000 9600)),
      congrArg some (by decide : 0x80#8 = fmtByte .standard .one .none),
      congrArg some (by decide : 0x03#8 = enByte .standard)⟩

theorem rdy_empty_inv (answers : List Byte) (c : Command) : (rdy bEmpty bEmpty 0 answers c).Inv :=
  rdy_inv answers c bEmpty_wf bEmpty_wf ⟨rfl, rfl⟩ (by decide)

/-- A full send buffer and a receive buffer with two bytes. -/
def sFull (answers : List Byte) (c : Command) : State := rdy bFull bTwo 0x43 answers c

theorem sFull_inv (answers : List Byte) (c : Command) : (sFull answers c).Inv :=
  rdy_inv answers c bFull_wf bTwo_wf ⟨rfl, rfl⟩ (by decide)

/-- A send buffer that wraps and a full receive buffer. -/
def sWrap (answers : List Byte) (c : Command) : State := rdy bWrap bFull 4 answers c

theorem sWrap_inv (answers : List Byte) (c : Command) : (sWrap answers c).Inv :=
  rdy_inv answers c bWrap_wf bFull_wf ⟨rfl, rfl⟩ (by decide)

/-- An Uninitialized block, right after reset: the shape holds. -/
theorem reset_shape : State.reset.Shape where
  config_wf := test_wf_standard
  length    := rfl
  fits      := fun i hi => by
    obtain rfl : i = 0 := by simpa [State.reset, State.resetWith, Config.nInst, Config.standard] using hi
    exact ⟨rfl, rfl⟩
  fifo_fits := rfl
  ready_eq  := fun i hi => by
    obtain rfl : i = 0 := by simpa [State.reset, State.resetWith, Config.nInst, Config.standard] using hi
    rfl
  mem_wf    := List.Pairwise.nil

/-- A command of no interest. -/
def cmd0 : Command := cmdOf 0 none

/-! ### Encoding and the step -/

theorem witness_EncodeOfDecode : decode (.d 0x51000006#32) = .ok (.sendString true 0 6) := by decide

theorem witness_StepRunsTheDecodedCommand :
    (let s : State := { sFull [] (cmdOf 0x30000041 none) with sched := [.port .fg] }
     s.config.wf = true ∧ s.halted = none ∧ s.sched = .port .fg :: [] ∧ s.queue .fg = cmdOf 0x30000041 none :: [] ∧
       decode (.d (cmdOf 0x30000041 none).word) = .ok (.sendByte 0 0x41)) ∧
    (let s := fifoState bTwo 0x1A5
     s.config.wf = true ∧ s.halted = none ∧ s.sched = .fifo :: [] ∧ s.fifo.queue = 0x1A5#10 :: [] ∧
       decode (.f 0x1A5#10) = .ok (.cbEnq 0xA5)) := by decide

theorem witness_IllegalWordRefused :
    (let s : State := { sFull [] (cmdOf 0x80000000 none) with sched := [.port .fg] }
     s.config.wf = true ∧ s.halted = none ∧ s.sched = .port .fg :: [] ∧ s.queue .fg = cmdOf 0x80000000 none :: [] ∧
       decode (.d (cmdOf 0x80000000 none).word) = .error .reservedOpcode) ∧
    (let s := fifoState bTwo 0x2FF
     s.config.wf = true ∧ s.halted = none ∧ s.sched = .fifo :: [] ∧ s.fifo.queue = 0x2FF#10 :: [] ∧
       decode (.f 0x2FF#10) = .error .byteOnByteless) := by decide

theorem witness_IdleStepsChangeNothing :
    (State.reset.config.wf = true ∧ State.reset.halted = none ∧ State.reset.sched = []) ∧
    (let s : State := { State.reset with sched := [.port .tick] }
     s.config.wf = true ∧ s.halted = none ∧ s.sched = .port .tick :: [] ∧ s.queue .tick = []) ∧
    (let s : State := { State.reset with sched := [.fifo] }
     s.config.wf = true ∧ s.halted = none ∧ s.sched = .fifo :: [] ∧ s.fifo.queue = []) := by decide

/-- A Ready block whose next step is a hardware reset. -/
def sReset : State := { sFull [] cmd0 with sched := [.hwReset] }

theorem witness_HardwareResetClearsReady :
    sReset.Shape ∧ sReset.halted = none ∧ sReset.sched = .hwReset :: [] ∧ sReset.insideCommand = false :=
  ⟨{ (sFull_inv [] cmd0).toShape with }, rfl, rfl, rfl⟩

theorem witness_CommandsBeforeInitRefused : State.reset.isReady = false ∧ (Instr.sendByte 0 0x41).format = .d ∧
    ∀ pv, Instr.sendByte 0 0x41 ≠ .init pv := by decide

/-! ### The circular buffer -/

theorem witness_EnqueueWritesAtTheTail :
    ((fifoState bFull 0x144).fifo.buf.WF ∧ bFull.count = bFull.cap) ∧
    ((fifoState bWrap 0x144).fifo.buf.WF ∧ bWrap.count ≠ bWrap.cap) := ⟨⟨bFull_wf, rfl⟩, bWrap_wf, by decide⟩

theorem witness_DequeueReadsFromTheHead :
    ((fifoState bEmpty 0x200).fifo.buf.WF ∧ bEmpty.count = 0) ∧
    ((fifoState bWrap 0x200).fifo.buf.WF ∧ bWrap.count ≠ 0) := ⟨⟨bEmpty_wf, rfl⟩, bWrap_wf, by decide⟩

theorem witness_PeekLastReadsBehindTheTail :
    ((fifoState bEmpty 0x300).fifo.buf.WF ∧ bEmpty.count = 0) ∧
    ((fifoState bFull 0x300).fifo.buf.WF ∧ bFull.count ≠ 0 ∧ ¬ bFull.tail > 0) ∧
    ((fifoState bWrap 0x300).fifo.buf.WF ∧ bWrap.count ≠ 0 ∧ bWrap.tail > 0) :=
  ⟨⟨bEmpty_wf, rfl⟩, ⟨bFull_wf, by decide⟩, bWrap_wf, by decide⟩

/-- The tail of the first buffer and the head of the second wrap. -/
theorem witness_IndicesAdvanceByOneOrWrap :
    (({ bEmpty with head := 3, tail := 3 } : Buffer).WF ∧ ({ bEmpty with head := 3, tail := 3 } : Buffer).enq 0x5A =
      some { st := [0, 0, 0, 0x5A], head := 3, tail := 0, count := 1 }) ∧
    (bWrap.WF ∧ bWrap.deq = some (0x44, { bWrap with head := 0, count := 1 })) ∧
    (bTwo.WF ∧ bTwo.deq = some (0x41, { bTwo with head := 1, count := 1 })) :=
  ⟨⟨⟨by decide, by decide, by decide, by decide⟩, rfl⟩, ⟨bWrap_wf, rfl⟩, bTwo_wf, rfl⟩

theorem witness_BufferIsABoundedQueue :
    (bFull.WF ∧ bFull.full = true ∧ bFull.contents = 1 :: [2, 3, 4]) ∧
    (bEmpty.WF ∧ bEmpty.full = false ∧ bEmpty.contents = []) := ⟨⟨bFull_wf, rfl, rfl⟩, bEmpty_wf, rfl, rfl⟩

theorem witness_FifoLaw : 1 ≤ bEmpty.cap ∧ ([1, 2, 3, 4] : List Byte).length = bEmpty.cap := by decide

theorem witness_StandAloneBufferInvariantKept :
    (fifoState bTwo 0x1A5).fifo.buf.WF ∧ ∃ t, step (fifoState bTwo 0x1A5) = .next t := ⟨bTwo_wf, _, rfl⟩

/-- A full send buffer and a receive buffer that is neither full nor empty. -/
theorem witness_FlagOutputsFollowTheCounts :
    (sFull [] cmd0).Inv ∧ (sFull [] cmd0).isReady = true ∧
      (sFull [] cmd0).config.params[0]? = some { capTx := 4, capRx := 4, base := 0 } := ⟨sFull_inv _ _, rfl, rfl⟩

/-! ### INIT -/

/-- Other layouts than the defaults, and two instances whose registers interleave. -/
theorem witness_ControlBytesHoldTheirFields :
    ({ Config.standard with
      params := [{ capTx := 4, capRx := 4, base := 0 }, { capTx := 4, capRx := 4, base := 1 }]
      table := [rec 0 9600, rec 1 9600]
      offsets := { data := 0, status := 2, en := 4, fmt := 6, baudL := 8, baudH := 10 }
      enLayout := { rxen := 4, txen := 3 }
      fmtLayout := { par := 4, stop := 7, chsz := 0 } } : Config).wf = true := by decide

/-- Both driver states: right after reset, and Ready. -/
theorem witness_InitPopulatesEveryInstance :
    (State.reset.Shape ∧ 0 < State.reset.config.nInst) ∧ (sFull [] cmd0).Shape :=
  ⟨⟨reset_shape, by decide⟩, (sFull_inv [] cmd0).toShape⟩

theorem witness_InitPopulatesEveryInstance_record : State.reset.Shape ∧ rec 0 9600 ∈ State.reset.config.table :=
  ⟨reset_shape, by decide⟩

/-- An address outside the control registers, and one just below them. -/
theorem witness_InitFrame : ¬ mayWrite (sFull [] cmd0).config (.init true) 6 ∧
    ¬ mayWrite (sFull [] cmd0).config (.init true) 1 := by
  constructor <;> rintro ⟨r, hr, g, hg, h⟩ <;>
    simp [sFull, rdy, State.reset, State.resetWith, Config.standard] at hr hg <;> subst hr <;>
    rcases hg with rfl | rfl | rfl | rfl <;>
    simp [regAddr, Reg.offset, RegOffsets.standard, sFull, rdy, State.reset, State.resetWith, Config.standard] at h

theorem witness_InitPopulatesEveryInstance_absent :
    State.reset.halted = none ∧ State.reset.paramReport 0 0 ∉ State.reset.config.halts := by decide

theorem witness_DivisorBytesAreExact : Config.standard.wf = true ∧ rec 0 9600 ∈ Config.standard.table := by decide

/-- V17, and a quotient of 65537. -/
theorem witness_DivisorBytesAreExact_refused :
    (let s : State := State.resetWith { Config.standard with table := [rec 0 2000000] }
     rec 0 2000000 ∈ s.config.table ∧ ¬ 16 * (rec 0 2000000).baudRate.toNat ≤ s.config.fClk) ∧
    (let s : State := State.resetWith { Config.standard with fClk := 1048592, table := [rec 0 1] }
     rec 0 1 ∈ s.config.table ∧ ¬ s.config.fClk / (16 * (rec 0 1).baudRate.toNat) ≤ 65536) := by decide

theorem witness_MalformedTableRefused :
    (let c : Config := { Config.standard with table := [] }
     c.table.length ≠ c.nInst) ∧
    (let c : Config := { Config.standard with table := [rec 0 9600, rec 0 9600] }
     ¬ (c.table.map (·.instanceId)).Nodup) ∧
    (let c : Config := { Config.standard with table := [rec 1 9600] }
     ∃ r ∈ c.table, c.nInst ≤ r.instanceId) ∧
    (let c : Config := { Config.standard with table := [rec 0 0] }
     ∃ r ∈ c.table, r.baudRate.toNat < 1) ∧
    (let c : Config := { Config.standard with table := [rec 0 2000000] }
     ∃ r ∈ c.table, ¬ 0 ≤ divisorExact c.fClk r.baudRate.toNat) := by decide

/-! ### The updates -/

/-- Also the first case of each update's own statement: the first identifier that does not exist. -/
theorem witness_UpdatesValidateTheInstance :
    (let s := sFull [] cmd0
     s.isReady = true ∧ s.halted = none ∧ s.config.nInst ≤ (1#8).toNat ∧ s.paramReport 1 1 ∉ s.config.halts ∧
       s.paramReport 1 2 ∉ s.config.halts) := by decide

theorem witness_SendUpdateWritesOrLosesTheByte_empty :
    (let s := rdy bEmpty bEmpty 0 [] cmd0
     s.isReady = true ∧ s.halted = none ∧ (0#8).toNat < s.config.nInst ∧ (s.uart (0#8).toNat).tx.count = 0) := by decide

theorem witness_SendUpdateWritesOrLosesTheByte_byte :
    (let s := sFull [0x20] cmd0
     s.Inv ∧ s.isReady = true ∧ s.halted = none ∧ (0#8).toNat < s.config.nInst ∧
       (s.uart (0#8).toNat).tx.count ≠ 0 ∧ s.answer.getLsbD s.config.statusBits.txe.val = true) ∧
    (let s := sFull [0x00] cmd0
     s.Inv ∧ s.isReady = true ∧ s.halted = none ∧ (0#8).toNat < s.config.nInst ∧
       (s.uart (0#8).toNat).tx.count ≠ 0 ∧ s.answer.getLsbD s.config.statusBits.txe.val = false ∧
       ({ moduleId := 1, instanceId := 0, operationId := 1, kind := .tbNempty } : Report) ∉ s.config.halts) :=
  ⟨⟨sFull_inv _ _, by decide⟩, sFull_inv _ _, by decide⟩

/-- V23c: the error flags are set and `RXC` is clear. -/
theorem witness_RecvUpdateDecodesTheSnapshot_noRxc :
    (let s := sFull [0x1C] cmd0
     s.isReady = true ∧ s.halted = none ∧ (0#8).toNat < s.config.nInst ∧ s.answer.getLsbD s.config.statusBits.rxc.val = false) := by decide

theorem witness_RecvUpdateDecodesTheSnapshot_clean :
    (let s := sWrap [0x80, 0x09] cmd0
     s.Inv ∧ s.isReady = true ∧ s.halted = none ∧ (0#8).toNat < s.config.nInst ∧ rxc s.config s.answer = true ∧
       lineError s.config s.answer = false ∧ (s.uart (0#8).toNat).rx.count = (s.uart (0#8).toNat).rx.cap) ∧
    (let s := sFull [0x80, 0x41] cmd0
     s.Inv ∧ s.isReady = true ∧ s.halted = none ∧ (0#8).toNat < s.config.nInst ∧ rxc s.config s.answer = true ∧
       lineError s.config s.answer = false ∧ (s.uart (0#8).toNat).rx.count ≠ (s.uart (0#8).toNat).rx.cap) :=
  ⟨⟨sWrap_inv _ _, by decide⟩, sFull_inv _ _, by decide⟩

/-- V22 and V23d: one error flag, and all three. -/
theorem witness_RecvUpdateDecodesTheSnapshot_errors :
    ∀ v ∈ [0x90#8, 0x9C#8],
      (let s := sFull [v, 0x42] cmd0
       s.isReady = true ∧ s.halted = none ∧ (0#8).toNat < s.config.nInst ∧ rxc s.config s.answer = true ∧
         lineError s.config s.answer = true ∧
         ∀ k : ErrorKind, ({ moduleId := 1, instanceId := 0, operationId := 2, kind := k } : Report) ∉ s.config.halts) :=
  fun v hv => by
    have hn : ∀ k : ErrorKind, ({ moduleId := 1, instanceId := 0, operationId := 2, kind := k } : Report) ∉
        (sFull [v, 0x42] cmd0).config.halts := fun k => by
      simp [sFull, rdy, State.reset, State.resetWith, Config.standard]
    rcases (by simpa using hv : v = 0x90#8 ∨ v = 0x9C#8) with rfl | rfl <;>
      exact ⟨rfl, rfl, by decide, by decide, by decide, hn⟩

/-- A state with the answers of another one and other commands, turn, trace, shadow byte and latches. -/
def other (s : State) : State :=
  { s with
    uarts := s.uarts.map fun u => { u with lastRx := 0x99, baud := 300, stop := .two, par := .odd }
    fg := [], turn := .tick, trace := [.fifoRet .none], draws := 7 }

/-- SEND_UPDATE: the receive buffers and the second answers differ too. -/
theorem witness_UpdatesDependOnTheSnapshotOnly_send :
    (let s₁ := sWrap [0x20, 0x01] cmd0
     let s₂ := other (rdy bWrap bTwo 0x43 [0x20, 0x02] cmd0)
     s₁.Shape ∧ s₂.Shape ∧ s₁.config = s₂.config ∧ s₁.isReady = true ∧ s₂.isReady = true ∧ s₁.halted = none ∧
       s₂.halted = none ∧ s₁.answer = s₂.answer ∧ (s₁.uart (0#8).toNat).tx = (s₂.uart (0#8).toNat).tx) :=
  ⟨(sWrap_inv _ _).toShape, { (rdy_inv (last := 0x43) [0x20, 0x02] cmd0 bWrap_wf bTwo_wf ⟨rfl, rfl⟩ (by decide)).toShape with
    ready_eq := fun i hi => by
      obtain rfl : i = 0 := by
        simpa [other, rdy, State.reset, State.resetWith, Config.nInst, Config.standard] using hi
      rfl
    fits := fun i hi => by
      obtain rfl : i = 0 := by
        simpa [other, rdy, State.reset, State.resetWith, Config.nInst, Config.standard] using hi
      exact ⟨rfl, rfl⟩ }, rfl, rfl, rfl, rfl, rfl, rfl, rfl⟩

/-- RECV_UPDATE: the send buffers differ too. -/
theorem witness_UpdatesDependOnTheSnapshotOnly_recv :
    (let s₁ := sFull [0x80, 0x41] cmd0
     let s₂ := other (rdy bWrap bTwo 0x43 [0x80, 0x41] cmd0)
     s₁.Shape ∧ s₂.Shape ∧ s₁.config = s₂.config ∧ s₁.isReady = true ∧ s₂.isReady = true ∧ s₁.halted = none ∧
       s₂.halted = none ∧ s₁.answer = s₂.answer ∧ (s₁.uart (0#8).toNat).rx = (s₂.uart (0#8).toNat).rx ∧
       s₁.takeAnswer.answer = s₂.takeAnswer.answer) :=
  ⟨(sFull_inv _ _).toShape, { (rdy_inv (last := 0x43) [0x80, 0x41] cmd0 bWrap_wf bTwo_wf ⟨rfl, rfl⟩ (by decide)).toShape with
    ready_eq := fun i hi => by
      obtain rfl : i = 0 := by
        simpa [other, rdy, State.reset, State.resetWith, Config.nInst, Config.standard] using hi
      rfl
    fits := fun i hi => by
      obtain rfl : i = 0 := by
        simpa [other, rdy, State.reset, State.resetWith, Config.nInst, Config.standard] using hi
      exact ⟨rfl, rfl⟩ }, rfl, rfl, rfl, rfl, rfl, rfl, rfl, rfl⟩

/-! ### Byte and string commands -/

/-- The first case of SEND_BYTE, RECV_BYTE and PEEK_LAST_BYTE: the first identifier that does not exist, and a null
pointer with the last one that does. -/
theorem witness_byte_commands_invalid :
    (let s := sFull [] cmd0
     s.isReady = true ∧ s.halted = none ∧ s.config.nInst ≤ (1#8).toNat ∧ (∀ op ∈ [3#8, 4, 7],
       s.paramReport 1 op ∉ s.config.halts)) ∧
    (let s := sFull [] cmd0
     s.isReady = true ∧ s.halted = none ∧ ¬ s.config.nInst ≤ (0#8).toNat ∧ (∀ op ∈ [4#8, 7],
       s.paramReport 0 op ∉ s.config.halts)) := by decide

theorem witness_string_commands_zero_length :
    (sFull [] cmd0).isReady = true ∧ (sFull [] cmd0).cmd.progress = none := by decide

theorem witness_string_commands_invalid :
    (let s := sFull [] cmd0
     s.isReady = true ∧ s.halted = none ∧ s.cmd.progress = none ∧ (1 : Len) ≠ 0 ∧ s.config.nInst ≤ (1#8).toNat ∧
       ∀ op ∈ [5#8, 6], s.paramReport 1 op ∉ s.config.halts) := by decide

theorem witness_SendByteEnqueues :
    (let s := sFull [] cmd0
     s.Inv ∧ s.isReady = true ∧ (0#8).toNat < s.config.nInst ∧
       (s.uart (0#8).toNat).tx.count = (s.uart (0#8).toNat).tx.cap) ∧
    (let s := sWrap [] cmd0
     s.Inv ∧ s.isReady = true ∧ (0#8).toNat < s.config.nInst ∧
       (s.uart (0#8).toNat).tx.count ≠ (s.uart (0#8).toNat).tx.cap) :=
  ⟨⟨sFull_inv _ _, by decide⟩, sWrap_inv _ _, by decide⟩

theorem witness_RecvByteDequeues :
    (let s := rdy bEmpty bEmpty 0 [] cmd0
     s.Inv ∧ s.isReady = true ∧ (0#8).toNat < s.config.nInst ∧ 1 ≤ s.cmd.dst.length ∧
       (s.uart (0#8).toNat).rx.count = 0) ∧
    (let s := sFull [] cmd0
     s.Inv ∧ s.isReady = true ∧ (0#8).toNat < s.config.nInst ∧ 1 ≤ s.cmd.dst.length ∧
       (s.uart (0#8).toNat).rx.count ≠ 0) :=
  ⟨⟨rdy_empty_inv _ _, by decide⟩, sFull_inv _ _, by decide⟩

/-- The receive buffer of the last state has its tail at 0. -/
theorem witness_PeekLastByteDeliversTheNewest :
    (let s := rdy bEmpty bEmpty 0 [] cmd0
     s.Inv ∧ s.isReady = true ∧ (0#8).toNat < s.config.nInst ∧ 1 ≤ s.cmd.dst.length ∧
       (s.uart (0#8).toNat).rx.count = 0) ∧
    (let s := sWrap [] cmd0
     s.Inv ∧ s.isReady = true ∧ (0#8).toNat < s.config.nInst ∧ 1 ≤ s.cmd.dst.length ∧
       (s.uart (0#8).toNat).rx.count ≠ 0 ∧ (s.uart (0#8).toNat).rx.tail = 0) :=
  ⟨⟨rdy_empty_inv _ _, by decide⟩, sWrap_inv _ _, by decide⟩

/-- No destination position, one source byte too few, one destination position too few. -/
theorem witness_ShortExtentsRefused :
    (let s := sFull [] { cmd0 with dst := [] }
     s.isReady = true ∧ (0#8).toNat < s.config.nInst ∧ s.cmd.progress = none ∧ s.cmd.dst.length < 1) ∧
    (let s := sFull [] cmd0
     s.isReady = true ∧ (0#8).toNat < s.config.nInst ∧ s.cmd.progress = none ∧ s.cmd.src.length < (5#16).toNat ∧
       s.cmd.dst.length < (5#16).toNat) := by decide

theorem witness_string_commands_enter :
    (let s := sFull [] cmd0
     s.isReady = true ∧ (0#8).toNat < s.config.nInst ∧ s.cmd.progress = none ∧ (4 : Len) ≠ 0 ∧
       (4#16).toNat ≤ s.cmd.src.length ∧ (4#16).toNat ≤ s.cmd.dst.length) := by decide

/-- The buffer is full; the loop goes on; the last byte. -/
theorem witness_SendStringSteps :
    (let s := sFull [] (cmdOf 0x51000003 (some 2))
     s.Inv ∧ s.isReady = true ∧ (0#8).toNat < s.config.nInst ∧ s.cmd.progress = some 2 ∧ 2 < (3#16).toNat ∧
       s.cmd.src[2]? = some 0x43 ∧ (s.uart (0#8).toNat).tx.count = (s.uart (0#8).toNat).tx.cap) ∧
    (let s := sWrap [] (cmdOf 0x51000003 (some 1))
     s.Inv ∧ s.isReady = true ∧ (0#8).toNat < s.config.nInst ∧ s.cmd.progress = some 1 ∧ 1 < (3#16).toNat ∧
       s.cmd.src[1]? = some 0x42 ∧ (s.uart (0#8).toNat).tx.count ≠ (s.uart (0#8).toNat).tx.cap ∧
       1 + 1 < (3#16).toNat) ∧
    (let s := sWrap [] (cmdOf 0x51000003 (some 2))
     s.Inv ∧ s.isReady = true ∧ (0#8).toNat < s.config.nInst ∧ s.cmd.progress = some 2 ∧ 2 < (3#16).toNat ∧
       s.cmd.src[2]? = some 0x43 ∧ (s.uart (0#8).toNat).tx.count ≠ (s.uart (0#8).toNat).tx.cap ∧
       2 + 1 = (3#16).toNat) :=
  ⟨⟨sFull_inv _ _, by decide⟩, ⟨sWrap_inv _ _, by decide⟩, sWrap_inv _ _, by decide⟩

/-- The buffer is empty; the loop goes on; the last byte. -/
theorem witness_RecvStringSteps :
    (let s := rdy bEmpty bEmpty 0 [] (cmdOf 0x61000003 (some 2))
     s.Inv ∧ s.isReady = true ∧ (0#8).toNat < s.config.nInst ∧ s.cmd.progress = some 2 ∧ 2 < (3#16).toNat ∧
       (s.uart (0#8).toNat).rx.count = 0) ∧
    (let s := sFull [] (cmdOf 0x61000003 (some 1))
     s.Inv ∧ s.isReady = true ∧ (0#8).toNat < s.config.nInst ∧ s.cmd.progress = some 1 ∧ 1 < (3#16).toNat ∧
       (s.uart (0#8).toNat).rx.count ≠ 0 ∧ 1 + 1 < (3#16).toNat) ∧
    (let s := sFull [] (cmdOf 0x61000003 (some 2))
     s.Inv ∧ s.isReady = true ∧ (0#8).toNat < s.config.nInst ∧ s.cmd.progress = some 2 ∧ 2 < (3#16).toNat ∧
       (s.uart (0#8).toNat).rx.count ≠ 0 ∧ 2 + 1 = (3#16).toNat) :=
  ⟨⟨rdy_empty_inv _ _, by decide⟩, ⟨sFull_inv _ _, by decide⟩, sFull_inv _ _, by decide⟩

/-- Three bytes for a send buffer with two free places. -/
def sSend : State := { sWrap [] (cmdOf 0x51000003 none) with sched := List.replicate 4 (.port .fg) }

theorem witness_UninterruptedSendString :
    sSend.Inv ∧ sSend.isReady = true ∧ sSend.halted = none ∧ sSend.queue .fg = cmdOf 0x51000003 none :: [] ∧
      (cmdOf 0x51000003 none).progress = none ∧
      decode (.d (cmdOf 0x51000003 none).word) = .ok (.sendString true 0 3) ∧ (0#8).toNat < sSend.config.nInst ∧
      (3#16).toNat ≤ (cmdOf 0x51000003 none).src.length ∧
      sSend.sched = List.replicate ((3#16).toNat + 1) (.port .fg) ++ [] :=
  ⟨{ sWrap_inv [] (cmdOf 0x51000003 none) with }, by decide⟩

/-- Three bytes asked of a receive buffer with two. -/
def sRecv : State := { sFull [] (cmdOf 0x61000003 none) with sched := List.replicate 4 (.port .fg) }

theorem witness_UninterruptedRecvString :
    sRecv.Inv ∧ sRecv.isReady = true ∧ sRecv.halted = none ∧ sRecv.queue .fg = cmdOf 0x61000003 none :: [] ∧
      (cmdOf 0x61000003 none).progress = none ∧
      decode (.d (cmdOf 0x61000003 none).word) = .ok (.recvString true 0 3) ∧ (0#8).toNat < sRecv.config.nInst ∧
      (3#16).toNat ≤ (cmdOf 0x61000003 none).dst.length ∧
      sRecv.sched = List.replicate ((3#16).toNat + 1) (.port .fg) ++ [] :=
  ⟨{ sFull_inv [] (cmdOf 0x61000003 none) with }, by decide⟩

/-- The same command inside its loop, one byte before its last. -/
def sLoop : State := { sWrap [] (cmdOf 0x51000003 (some 1)) with sched := [.port .fg] }

/-- A command inside its loop, whose step goes on to the last index below its length. -/
theorem witness_StringIndexStaysInRange :
    (∀ p, ∀ c ∈ sLoop.queue p, c.indexOk) ∧ sLoop.cmd.progress = some 1 ∧
      ∃ t, step sLoop = .next t ∧ t.cmd.progress = some 2 := by
  refine ⟨?_, rfl, _, rfl, rfl⟩
  intro p c hc k hk
  cases p
  · obtain rfl : c = cmdOf 0x51000003 (some 1) := by simpa [sLoop, sWrap, rdy, State.queue] using hc
    obtain rfl : k = 1 := by simpa [cmdOf] using hk.symm
    decide
  · simp [sLoop, sWrap, rdy, State.queue, State.reset, State.resetWith] at hc

/-! ### Error reports -/

/-- A block whose reporter does not return from the `E_PARAM` of INIT. -/
def sHalts : State := State.resetWith { Config.standard with
  halts := [{ moduleId := 1, instanceId := 0, operationId := 0, kind := .param }] }

theorem witness_HaltingReportStopsTheBlock : sHalts.halted = none ∧
    ∃ t, exec (.init false) sHalts = .next t ∧
      t.halted = some { moduleId := 1, instanceId := 0, operationId := 0, kind := .param } := ⟨rfl, _, rfl, rfl⟩

theorem witness_HaltingReportStopsTheBlock_stuck :
    (let r : Report := { moduleId := 1, instanceId := 0, operationId := 0, kind := .param }
     let s : State := { sHalts with halted := some r }
     s.config.wf = true ∧ s.halted = some r) := by decide

theorem witness_ReturningReporterNeverHalts : sSend.config.halts = [] ∧ ∃ t, step sSend = .next t := ⟨rfl, _, rfl⟩

/-- Every kind a command raises: V21b, V23d and V26. -/
theorem witness_ReportsNameTheirCommand :
    holds (exec (.sendUpdate 0) (sFull [0x00] cmd0)) (fun t => (reportsOf (newEvents (sFull [0x00] cmd0) t)).length == 1) =
      true ∧
    holds (exec (.recvUpdate 0) (sFull [0x9C, 0x99] cmd0))
      (fun t => (reportsOf (newEvents (sFull [0x9C, 0x99] cmd0) t)).length == 3) = true := by decide

theorem witness_ParamReportStandsAlone :
    holds (exec (.sendByte 1 0x41) (sFull [] cmd0)) (fun t => newEvents (sFull [] cmd0) t ==
      [.report { moduleId := 1, instanceId := 1, operationId := 3, kind := .param },
        .ret .fg (.ok false) [0xD0, 0xD1, 0xD2, 0xD3]]) = true := by decide

/-! ### The whole machine -/

theorem witness_OnlyInitChangesReadyAndLatches : (∀ pv, Instr.sendByte 0 0x41 ≠ .init pv) ∧
    ∃ t, exec (.sendByte 0 0x41) (sWrap [] cmd0) = .next t := ⟨by decide, _, rfl⟩

theorem witness_InstancesAreIsolated :
    ((∀ pv, Instr.sendByte 0 0x41 ≠ .init pv) ∧ (∃ t, exec (.sendByte 0 0x41) (sWrap [] cmd0) = .next t) ∧
      (∀ inst, instOf (.sendByte 0 0x41) = some inst → inst.toNat ≠ 1) ∧ (Instr.sendByte 0 0x41).format = .d) ∧
    ((∀ pv, Instr.cbDeq ≠ .init pv) ∧ (∃ t, exec .cbDeq (fifoState bTwo 0x200) = .next t) ∧
      ∀ inst, instOf .cbDeq = some inst → inst.toNat ≠ 0) :=
  ⟨⟨by decide, ⟨_, rfl⟩, by decide, rfl⟩, by decide, ⟨_, rfl⟩, by decide⟩

theorem witness_DirectionsAreSeparate :
    (∃ t, exec (.sendUpdate 0) (sWrap [0x20] cmd0) = .next t) ∧
    (∃ t, exec (.recvUpdate 0) (sFull [0x80, 0x41] cmd0) = .next t) ∧
    (∃ t, exec (.peekLastByte true 0) (sFull [] cmd0) = .next t) := ⟨⟨_, rfl⟩, ⟨_, rfl⟩, _, rfl⟩

/-- SEND_UPDATE writes at address 0; address 1 is outside. -/
theorem witness_RegisterSpaceFrame : (∃ t, exec (.sendUpdate 0) (sWrap [0x20] cmd0) = .next t) ∧
    ¬ mayWrite (sWrap [0x20] cmd0).config (.sendUpdate 0) 1 := ⟨⟨_, rfl⟩, by unfold mayWrite; decide⟩

theorem witness_RegisterAccessesPerCommand :
    (∃ t, exec (.sendUpdate 0) (sWrap [0x20] cmd0) = .next t) ∧
    (∃ t, exec (.recvUpdate 0) (sFull [0x80, 0x41] cmd0) = .next t) ∧
    (∃ t, exec (.init true) State.reset = .next t) ∧ (∃ t, exec (.init false) State.reset = .next t) ∧
    (∃ t, exec (.sendByte 0 0x41) (sWrap [] cmd0) = .next t) ∧
    ∀ inst, Instr.sendByte 0 0x41 ≠ .sendUpdate inst ∧ Instr.sendByte 0 0x41 ≠ .recvUpdate inst :=
  ⟨⟨_, rfl⟩, ⟨_, rfl⟩, ⟨_, rfl⟩, ⟨_, rfl⟩, ⟨_, rfl⟩, fun _ => ⟨nofun, nofun⟩⟩

/-- A command that stays with its word and source, one that leaves, a port that does not take the step, and the stand-alone
buffer's port taking it. -/
theorem witness_TraceIsAppendOnly :
    ((∃ t, step sSend = .next t) ∧ sSend.sched.head? = some (.port .fg) ∧ sSend.sched.head? ≠ some (.port .tick) ∧
      sSend.sched.head? ≠ some .fifo) ∧
    ((∃ t, step (fifoState bTwo 0x200) = .next t) ∧ (fifoState bTwo 0x200).sched.head? = some .fifo) :=
  ⟨⟨⟨_, rfl⟩, by decide⟩, ⟨_, rfl⟩, rfl⟩

theorem witness_InvariantKept : sSend.Inv ∧ ∃ t, step sSend = .next t :=
  ⟨{ sWrap_inv [] (cmdOf 0x51000003 none) with }, _, rfl⟩

/-- A second configuration the model admits: two instances (spec/95_test_vectors.md P4). -/
theorem witness_InvariantAtReset :
    ({ Config.standard with
      params := [{ capTx := 4, capRx := 4, base := 0 }, { capTx := 4, capRx := 4, base := 16 }]
      fClk := 8000000
      table := [rec 0 9600, { instanceId := 1, baudRate := 115200, stopBits := .two, parity := .even }] } :
        Config).wf = true := by decide

end Sys2Proof.Tests
end

/-! Bit fields of a byte, the layouts of `EN` and `FMT`, and the register addresses of an admitted configuration
(spec/10_state.md R34, R35, spec/20_memory.md R61). -/

namespace Sys2Proof.Machine

/-! ### A field of a byte -/

/-- A code of `n` bits shifted to `p` leaves every bit outside `p .. p + n - 1` zero. -/
theorem getLsbD_field_outside {v : Byte} {n p k : Nat} (hv : v.toNat < 2 ^ n) (hk : k < p ∨ p + n ≤ k) :
    (v <<< p).getLsbD k = false := by
  rcases hk with hk | hk
  · simp [hk]
  · have hlt : v.toNat < 2 ^ (k - p) := lt_of_lt_of_le hv (Nat.pow_le_pow_right (by decide) (by omega))
    have hbit : v.getLsbD (k - p) = false := Nat.testBit_lt_two_pow hlt
    simp [hbit]

/-- A code shifted to `p` has its bits from `p` on. -/
theorem getLsbD_field_inside (v : Byte) {p i : Nat} (h : p + i < 8) : (v <<< p).getLsbD (p + i) = v.getLsbD i := by
  rw [BitVec.getLsbD_shiftLeft, Nat.add_sub_cancel_left]
  simp only [h, Nat.not_lt.mpr (Nat.le_add_right p i), decide_true, decide_false, Bool.not_false, Bool.true_and]

theorem parCode_lt (par : Parity) : (parCode par).toNat < 2 ^ 2 := by cases par <;> decide

theorem stopCode_lt (stop : StopBits) : (stopCode stop).toNat < 2 ^ 1 := by cases stop <;> decide

theorem chszCode_lt : chszCode.toNat < 2 ^ 4 := by decide

/-! ### The byte of `EN` -/

/-- The byte of `EN` has exactly the two enable bits set. -/
theorem enByte_getLsbD (l : EnLayout) (k : Fin 8) :
    (enByte l).getLsbD k.val = (k == l.rxen || k == l.txen) := by
  have hbit (b : Fin 8) : (1#8 <<< b.val).getLsbD k.val = (k == b) := by revert b k; decide
  rw [enByte, BitVec.getLsbD_or, hbit, hbit]

/-! ### The byte of `FMT` -/

/-- An admitted layout keeps the three fields of `FMT` apart. -/
theorem fmtLayoutOk_apart {c : Config} (h : c.fmtLayoutOk = true) :
    (c.fmtLayout.stop.val < c.fmtLayout.par.val ∨ c.fmtLayout.par.val + 2 ≤ c.fmtLayout.stop.val) ∧
    (c.fmtLayout.par.val + 2 ≤ c.fmtLayout.chsz.val ∨ c.fmtLayout.chsz.val + 4 ≤ c.fmtLayout.par.val) ∧
    (c.fmtLayout.stop.val < c.fmtLayout.chsz.val ∨ c.fmtLayout.chsz.val + 4 ≤ c.fmtLayout.stop.val) := by
  have hnd : c.fmtLayout.bits.Nodup := of_decide_eq_true h
  simp only [FmtLayout.bits, List.nodup_cons, List.mem_cons, List.not_mem_nil, or_false, not_or] at hnd
  omega

/-- A bit of the byte of `FMT` is the one of the three fields. -/
theorem fmtByte_getLsbD (l : FmtLayout) (stop : StopBits) (par : Parity) (k : Nat) :
    (fmtByte l stop par).getLsbD k = ((chszCode <<< l.chsz.val).getLsbD k || (stopCode stop <<< l.stop.val).getLsbD k ||
      (parCode par <<< l.par.val).getLsbD k) := by
  simp only [fmtByte, BitVec.getLsbD_or]

section Fields

variable {c : Config} (h : c.fmtLayoutOk = true) (stop : StopBits) (par : Parity)
include h

/-- `PAR` holds the code of the parity. -/
theorem fmtByte_par :
    (fmtByte c.fmtLayout stop par).extractLsb' c.fmtLayout.par.val 2 = (parCode par).extractLsb' 0 2 := by
  obtain ⟨hsp, hpc, -⟩ := fmtLayoutOk_apart h
  apply BitVec.eq_of_getLsbD_eq
  intro i hi
  have hin := getLsbD_field_inside (parCode par) (p := c.fmtLayout.par.val) (i := i) (by omega)
  have hstop := getLsbD_field_outside (p := c.fmtLayout.stop.val) (k := c.fmtLayout.par.val + i)
    (stopCode_lt stop) (by omega)
  have hchsz := getLsbD_field_outside (p := c.fmtLayout.chsz.val) (k := c.fmtLayout.par.val + i) chszCode_lt (by omega)
  simp only [BitVec.getLsbD_extractLsb', fmtByte_getLsbD, hin, hstop, hchsz, Bool.false_or, Nat.zero_add]

/-- `STOP` holds the code of the stop bits. -/
theorem fmtByte_stop : (fmtByte c.fmtLayout stop par).getLsbD c.fmtLayout.stop.val = (stopCode stop).getLsbD 0 := by
  obtain ⟨hsp, -, hsc⟩ := fmtLayoutOk_apart h
  have hin := getLsbD_field_inside (stopCode stop) (p := c.fmtLayout.stop.val) (i := 0) (by omega)
  have hpar := getLsbD_field_outside (p := c.fmtLayout.par.val) (k := c.fmtLayout.stop.val) (parCode_lt par) (by omega)
  have hchsz := getLsbD_field_outside (p := c.fmtLayout.chsz.val) (k := c.fmtLayout.stop.val) chszCode_lt (by omega)
  rw [Nat.add_zero] at hin
  simp only [fmtByte_getLsbD, hin, hpar, hchsz, Bool.false_or, Bool.or_false]

/-- `CHSZ` holds the code of the character size. -/
theorem fmtByte_chsz :
    (fmtByte c.fmtLayout stop par).extractLsb' c.fmtLayout.chsz.val 4 = chszCode.extractLsb' 0 4 := by
  obtain ⟨-, hpc, hsc⟩ := fmtLayoutOk_apart h
  apply BitVec.eq_of_getLsbD_eq
  intro i hi
  have hin := getLsbD_field_inside chszCode (p := c.fmtLayout.chsz.val) (i := i) (by omega)
  have hstop := getLsbD_field_outside (p := c.fmtLayout.stop.val) (k := c.fmtLayout.chsz.val + i)
    (stopCode_lt stop) (by omega)
  have hpar := getLsbD_field_outside (p := c.fmtLayout.par.val) (k := c.fmtLayout.chsz.val + i)
    (parCode_lt par) (by omega)
  simp only [BitVec.getLsbD_extractLsb', fmtByte_getLsbD, hin, hstop, hpar, Bool.or_false, Nat.zero_add]

end Fields

/-- Outside the positions of the three fields the byte of `FMT` is zero. -/
theorem fmtByte_outside {l : FmtLayout} (stop : StopBits) (par : Parity) {k : Nat} (hk : k ∉ l.bits) :
    (fmtByte l stop par).getLsbD k = false := by
  simp only [FmtLayout.bits, List.mem_cons, List.not_mem_nil, or_false, not_or] at hk
  have hpar := getLsbD_field_outside (p := l.par.val) (k := k) (parCode_lt par) (by omega)
  have hstop := getLsbD_field_outside (p := l.stop.val) (k := k) (stopCode_lt stop) (by omega)
  have hchsz := getLsbD_field_outside (p := l.chsz.val) (k := k) chszCode_lt (by omega)
  simp only [fmtByte_getLsbD, hpar, hstop, hchsz, Bool.or_false]

/-! ### The register addresses -/

/-- The six registers, in the order of `RegOffsets.all`. -/
def Reg.all : List Reg := [.data, .status, .en, .fmt, .baudL, .baudH]

theorem Reg.mem_all (r : Reg) : r ∈ Reg.all := by cases r <;> decide

theorem Reg.map_offset_all (o : RegOffsets) : Reg.all.map (Reg.offset o) = o.all := rfl

theorem Reg.offset_mem_all (o : RegOffsets) (r : Reg) : r.offset o ∈ o.all :=
  Reg.map_offset_all o ▸ List.mem_map_of_mem r.mem_all

/-- Admitted offsets tell the registers apart. -/
theorem Reg.offset_inj {c : Config} (h : c.offsetsOk = true) {r q : Reg}
    (heq : r.offset c.offsets = q.offset c.offsets) : r = q := by
  have hnd : (Reg.all.map (Reg.offset c.offsets)).Nodup := Reg.map_offset_all c.offsets ▸ of_decide_eq_true h
  exact List.inj_on_of_nodup_map hnd r.mem_all q.mem_all heq

/-- No register of one instance has the address of a register of a later one. -/
theorem regAddr_ne_of_lt {c : Config} (h : c.windowsOk = true) {i j : Nat} (hij : i < j) (hj : j < c.nInst)
    (r q : Reg) : regAddr c i r ≠ regAddr c j q := by
  have hpw : c.params.Pairwise (windowsApart c.offsets) := of_decide_eq_true h
  have hjl : j < c.params.length := hj
  have hil : i < c.params.length := hij.trans hjl
  have hap := List.pairwise_iff_getElem.mp hpw i j hil hjl hij
  simpa [regAddr, hil, hjl] using hap _ (r.offset_mem_all _) _ (q.offset_mem_all _)

/-- An address of an admitted configuration belongs to one register of one instance. -/
theorem regAddr_inj {c : Config} (ho : c.offsetsOk = true) (hw : c.windowsOk = true) {i j : Nat} (hi : i < c.nInst)
    (hj : j < c.nInst) {r q : Reg} (heq : regAddr c i r = regAddr c j q) : i = j ∧ r = q := by
  rcases lt_trichotomy i j with hij | rfl | hij
  · exact absurd heq (regAddr_ne_of_lt hw hij hj r q)
  · exact ⟨rfl, Reg.offset_inj ho (Nat.add_left_cancel heq)⟩
  · exact absurd heq.symm (regAddr_ne_of_lt hw hij hi q r)

/-- Settles O51: the fields of `FMT` are read one at a time, the other two being zero there, and the addresses are told
apart within a window by the offsets and between windows by `windowsOk`. -/
theorem controlBytesHoldTheirFields : Obligations.ControlBytesHoldTheirFields := by
  unfold Obligations.ControlBytesHoldTheirFields
  intro c hwf
  obtain ⟨-, -, -, -, -, -, -, -, -, hoff, -, hfmt, hwin, -⟩ := c.wf_iff.mp hwf
  refine ⟨enByte_getLsbD c.enLayout, fun stop par => ⟨?_, ?_, ?_, fun k => fmtByte_outside stop par⟩,
    fun i hi j hj r q => regAddr_inj hoff hwin hi hj⟩
  · rw [fmtByte_par hfmt]
    cases par <;> decide
  · rw [fmtByte_stop hfmt]
    cases stop <;> decide
  · rw [fmtByte_chsz hfmt]
    decide

end Sys2Proof.Machine

/-! The steps on which nothing runs (log 6). -/

namespace Sys2Proof.Machine

theorem State.nextAgent_nil {s : State} (h : s.sched = []) : s.nextAgent = none := by simp [State.nextAgent, h]

/-- A running block of an admitted configuration with no agent to come stays as it is. -/
theorem step_no_agent {s : State} (hw : s.config.wf = true) (hh : s.halted = none) (h : s.nextAgent = none) :
    step s = .next s := by simp [step, hw, hh, h]

/-- A port on which nothing is presented changes nothing in its step. -/
theorem agentStep_port_idle {s : State} {p : Port} (h : s.queue p = []) : agentStep (.port p) s = .next s := by
  simp [agentStep, State.fetch, h]

/-- The stand-alone buffer's port, with nothing presented, changes nothing in its step. -/
theorem agentStep_fifo_idle {s : State} (h : s.fifo.queue = []) : agentStep .fifo s = .next s := by
  simp [agentStep, State.fetch, h]

/-- Settles O8: the step is the next agent's, and an agent that fetches nothing leaves the state it is given. -/
theorem idleStepsChangeNothing : Obligations.IdleStepsChangeNothing := by
  unfold Obligations.IdleStepsChangeNothing
  intro s hw hh
  refine ⟨fun hs => step_no_agent hw hh (State.nextAgent_nil hs), fun p rest hs hq => ?_, fun rest hs hq => ?_⟩
  · rw [step_agent hw hh (State.nextAgent_port hs)]
    exact agentStep_port_idle ((s.queue_with_turn rest p p).trans hq)
  · rw [step_agent hw hh (State.nextAgent_fifo hs)]
    exact agentStep_fifo_idle hq

end Sys2Proof.Machine

/-! A circular buffer seen through its stored bytes, oldest first, as a bounded queue (spec/10_state.md R21, R23,
spec/40_circular_buffer.md R121 to R124). -/

namespace Sys2Proof.Machine

theorem Buffer.WF.cap_pos {b : Buffer} (h : b.WF) : 0 < b.cap := Nat.zero_lt_of_lt h.head_lt

/-- A buffer has room for a byte, so it is never both full and empty. -/
theorem Buffer.WF.full_and_empty {b : Buffer} (h : b.WF) : (b.full && b.empty) = false := by
  have hpos := h.cap_pos
  rw [Bool.and_eq_false_iff, ← Bool.not_eq_true, ← Bool.not_eq_true, b.full_iff, b.empty_iff]
  omega

@[simp] theorem Buffer.contents_length (b : Buffer) : b.contents.length = b.count := by simp [Buffer.contents]

theorem Buffer.contents_eq_nil {b : Buffer} : b.contents = [] ↔ b.count = 0 := by
  rw [← List.length_eq_zero_iff, b.contents_length]

/-- A slot that holds a byte is not the one the next Enqueue writes. -/
theorem Buffer.WF.slot_ne_tail {b : Buffer} (h : b.WF) {j : Nat} (hj : j < b.count) (hne : b.count ≠ b.cap) :
    (b.head + j) % b.cap ≠ b.tail := by
  have hcap := h.count_le
  rw [h.tail_eq]
  intro heq
  have hmod : j % b.cap = b.count % b.cap := Nat.ModEq.add_left_cancel' b.head heq
  rw [Nat.mod_eq_of_lt (by omega), Nat.mod_eq_of_lt (by omega)] at hmod
  omega

/-- A successful Enqueue appends its byte. -/
theorem Buffer.WF.enq_contents {b b' : Buffer} {x : Byte} (hb : b.WF) (h : b.enq x = some b') :
    b'.contents = b.contents ++ [x] := by
  have hc := Buffer.enq_cap h
  obtain ⟨hne, rfl⟩ := Buffer.enq_some.1 h
  have htl : b.tail < b.st.length := hb.tail_lt
  simp only [Buffer.contents, hc, List.range_succ, List.map_append, List.map_singleton, ← hb.tail_eq]
  congr 1
  · refine List.map_congr_left fun j hj => ?_
    have hslot := hb.slot_ne_tail (List.mem_range.1 hj) hne
    simp [List.getD_eq_getElem?_getD, List.getElem?_set_ne hslot.symm]
  · simp [List.getD_eq_getElem?_getD, htl]

/-- A successful Dequeue takes the first byte. -/
theorem Buffer.WF.deq_contents {b b' : Buffer} {y : Byte} (hb : b.WF) (h : b.deq = some (y, b')) :
    b.contents = y :: b'.contents := by
  have hc := Buffer.deq_cap h
  obtain ⟨hne, rfl, rfl⟩ := Buffer.deq_some.1 h
  obtain ⟨n, hn⟩ := Nat.exists_eq_succ_of_ne_zero hne
  have hslot (j : Nat) : (b.head + (j + 1)) % b.cap = ((b.head + 1) % b.cap + j) % b.cap := by
    rw [Nat.mod_add_mod, Nat.add_assoc, Nat.add_comm 1 j]
  unfold Buffer.contents
  rw [hc]
  simp only [hn, List.range_succ_eq_map, List.map_cons, List.map_map, Nat.add_zero,
    Nat.mod_eq_of_lt hb.head_lt, Nat.succ_eq_add_one, Nat.add_sub_cancel]
  congr 1
  exact List.map_congr_left fun j _ => by rw [Function.comp_apply, Nat.succ_eq_add_one, hslot]

/-- The index behind the tail is the slot of the newest byte. -/
theorem Buffer.WF.behindTail_eq {b : Buffer} (h : b.WF) {n : Nat} (hn : b.count = n + 1) :
    b.behindTail = (b.head + n) % b.cap := by
  have hpos := h.cap_pos
  have hadd : (b.head + (n + 1)) % b.cap + b.cap - 1 = (b.head + (n + 1)) % b.cap + (b.cap - 1) := by omega
  rw [Buffer.behindTail, h.tail_eq, hn, hadd, Nat.mod_add_mod,
    show b.head + (n + 1) + (b.cap - 1) = b.head + n + b.cap by omega, Nat.add_mod_right]

/-- PeekLast answers the last stored byte. -/
theorem Buffer.WF.peekLast_eq_getLast? {b : Buffer} (h : b.WF) : b.peekLast = b.contents.getLast? := by
  cases hn : b.count with
  | zero => rw [Buffer.peekLast_none.2 hn, Buffer.contents_eq_nil.2 hn, List.getLast?_nil]
  | succ n =>
    rw [Buffer.peekLast_some.2 ⟨by omega, rfl⟩, h.behindTail_eq hn, Buffer.contents, hn, List.range_succ,
      List.map_append, List.map_singleton, List.getLast?_concat]

/-- After a successful Enqueue the byte behind the tail is the one enqueued. -/
theorem Buffer.WF.enq_behindTail {b b' : Buffer} {x : Byte} (hb : b.WF) (h : b.enq x = some b') :
    b'.st.getD b'.behindTail 0 = x := by
  have hpeek : b'.peekLast = some x := by
    rw [(Buffer.enq_wf hb h).peekLast_eq_getLast?, hb.enq_contents h, List.getLast?_concat]
  exact (Buffer.peekLast_some.1 hpeek).2.symm

/-- Settles O17: each primitive is taken from what it does to the list of the stored bytes. -/
theorem bufferIsABoundedQueue : Obligations.BufferIsABoundedQueue := by
  unfold Obligations.BufferIsABoundedQueue
  intro b x hb
  refine ⟨Buffer.contents_eq_nil.2 b.create_count, b.contents_length, hb.full_and_empty,
    fun hfull => Buffer.enq_none.2 (b.full_iff.1 hfull), fun hfull => ?_, fun y rest hyr => ?_,
    fun hnil => Buffer.deq_none.2 (Buffer.contents_eq_nil.1 hnil), hb.peekLast_eq_getLast?⟩
  · have hne : b.count ≠ b.cap := fun heq => by rw [b.full_iff.2 heq] at hfull; cases hfull
    have henq := (Buffer.enq_some (x := x)).2 ⟨hne, rfl⟩
    exact ⟨_, henq, hb.enq_contents henq⟩
  · have hne : b.count ≠ 0 := fun h0 => by rw [Buffer.contents_eq_nil.2 h0] at hyr; cases hyr
    have hdeq := Buffer.deq_some.2 ⟨hne, rfl, rfl⟩
    obtain ⟨rfl, rfl⟩ := List.cons.inj (hyr.symm.trans (hb.deq_contents hdeq))
    exact ⟨_, hdeq, rfl⟩

end Sys2Proof.Machine

/-! What a driver command other than INIT can do to the instances, and what a primitive leaves alone
(spec/10_state.md R25, R27, R36, spec/20_memory.md R75). -/

namespace Sys2Proof.Machine

/-! ### How an instance evolves between two INITs -/

/-- The instance keeps its capacities, latches and ready bit, and its invariants. -/
structure Uart.Evolves (u v : Uart) : Prop where
  txCap : v.tx.cap = u.tx.cap
  rxCap : v.rx.cap = u.rx.cap
  baud  : v.baud = u.baud
  stop  : v.stop = u.stop
  par   : v.par = u.par
  ready : v.ready = u.ready
  wf    : u.WF → v.WF

theorem Uart.Evolves.refl (u : Uart) : u.Evolves u := ⟨rfl, rfl, rfl, rfl, rfl, rfl, id⟩

theorem Uart.Evolves.of_eq {u v : Uart} (h : v = u) : u.Evolves v := h ▸ .refl u

theorem Uart.Evolves.trans {u v w : Uart} (h : u.Evolves v) (k : v.Evolves w) : u.Evolves w :=
  ⟨k.txCap.trans h.txCap, k.rxCap.trans h.rxCap, k.baud.trans h.baud, k.stop.trans h.stop, k.par.trans h.par,
    k.ready.trans h.ready, k.wf ∘ h.wf⟩

theorem Uart.evolves_txEnq {u : Uart} {x : Byte} {b : Buffer} (h : u.tx.enq x = some b) :
    u.Evolves { u with tx := b } :=
  ⟨Buffer.enq_cap h, rfl, rfl, rfl, rfl, rfl, fun hw => ⟨Buffer.enq_wf hw.tx h, hw.rx, hw.shadow⟩⟩

theorem Uart.evolves_txDeq {u : Uart} {x : Byte} {b : Buffer} (h : u.tx.deq = some (x, b)) :
    u.Evolves { u with tx := b } :=
  ⟨Buffer.deq_cap h, rfl, rfl, rfl, rfl, rfl, fun hw => ⟨Buffer.deq_wf hw.tx h, hw.rx, hw.shadow⟩⟩

/-- A push writes the shadow byte with the byte it puts behind the tail (spec/10_state.md R29). -/
theorem Uart.evolves_rxPush {u : Uart} {x : Byte} {b : Buffer} (h : u.rx.enq x = some b) :
    u.Evolves { u with rx := b, lastRx := x } :=
  ⟨rfl, Buffer.enq_cap h, rfl, rfl, rfl, rfl,
    fun hw => ⟨hw.tx, Buffer.enq_wf hw.rx h, fun _ => (hw.rx.enq_behindTail h).symm⟩⟩

/-- A Dequeue moves neither the tail nor the byte behind it, so the shadow byte stays right (spec/10_state.md R29). -/
theorem Uart.evolves_rxDeq {u : Uart} {x : Byte} {b : Buffer} (h : u.rx.deq = some (x, b)) :
    u.Evolves { u with rx := b } := by
  refine ⟨rfl, Buffer.deq_cap h, rfl, rfl, rfl, rfl, fun hw => ⟨hw.tx, Buffer.deq_wf hw.rx h, fun _ => ?_⟩⟩
  obtain ⟨hne, -, rfl⟩ := Buffer.deq_some.1 h
  exact hw.shadow hne

/-- Where the replacement of an instance has evolved from it, every instance has. -/
theorem State.setUart_evolves {s : State} {i : Nat} {u : Uart} (h : (s.uart i).Evolves u) (j : Nat) :
    (s.uart j).Evolves ((s.setUart i u).uart j) := by
  rw [State.setUart_uart]
  split
  · rename_i hij
    exact hij.1 ▸ h
  · exact .refl _

/-! ### What the steps around a command's effect leave alone -/

theorem State.resume_fifo {s : State} {f : State → State} (hf : ∀ s : State, (f s).fifo = s.fifo) :
    (s.resume f).fifo = s.fifo := by
  rcases State.resume_cases s f with ⟨_, h⟩ | ⟨_, h⟩
  · rw [h, hf]
  · rw [h]

@[simp] theorem State.paramError_uarts (s : State) (inst op : Byte) (r : Result) :
    (s.paramError inst op r).uarts = s.uarts := (s.paramError_same inst op r).uarts

@[simp] theorem State.paramError_fifo (s : State) (inst op : Byte) (r : Result) :
    (s.paramError inst op r).fifo = s.fifo := State.resume_fifo fun s => s.ret_fifo r

@[simp] theorem stringMoved_uarts (len : Len) (k : Nat) (s : State) : (stringMoved len k s).uarts = s.uarts :=
  (stringMoved_same len k s).uarts

@[simp] theorem stringMoved_fifo (len : Len) (k : Nat) (s : State) : (stringMoved len k s).fifo = s.fifo := by
  rcases stringMoved_cases len k s with ⟨_, h⟩ | ⟨_, h⟩ <;> simp [h]

theorem stringEntry_fifo {pv : Bool} {inst : Byte} {len : Len} {op : Byte} {extent : Nat} {s t : State}
    (h : stringEntry pv inst len op extent s = .next t) : t.fifo = s.fifo := by
  rcases stringEntry_next h with ⟨_, rfl⟩ | ⟨_, _, rfl⟩ | ⟨_, _, _, rfl⟩ <;> simp

@[simp] theorem lineReports_uarts (v inst : Byte) (s : State) : (lineReports v inst s).uarts = s.uarts :=
  (lineReports_same v inst s).uarts

theorem reportIf_fifo (flag : Bool) (k : ErrorKind) (inst : Byte) (s : State) :
    (reportIf flag k inst s).fifo = s.fifo := by cases flag <;> rfl

@[simp] theorem lineReports_fifo (v inst : Byte) (s : State) : (lineReports v inst s).fifo = s.fifo := by
  unfold lineReports
  rw [State.resume_fifo (reportIf_fifo _ _ _), State.resume_fifo (reportIf_fifo _ _ _), reportIf_fifo]

@[simp] theorem sendDequeued_uarts (s : State) (inst b : Byte) : (sendDequeued s inst b).uarts = s.uarts := by
  unfold sendDequeued
  split
  · simp
  · simp [(State.resume_same fun s => s.ret_same _).uarts]

@[simp] theorem sendDequeued_fifo (s : State) (inst b : Byte) : (sendDequeued s inst b).fifo = s.fifo := by
  unfold sendDequeued
  split
  · simp
  · simp [State.resume_fifo fun s => s.ret_fifo _]

/-! ### The frame of a command -/

/-- From `s` to `t` only instance `i` may have changed, and only as instances evolve; the stand-alone buffer's port has
not (spec/10_state.md R25). -/
structure State.LocalTo (i : Nat) (s t : State) : Prop where
  others  : ∀ j, i ≠ j → t.uart j = s.uart j
  evolves : ∀ j, (s.uart j).Evolves (t.uart j)
  fifo    : t.fifo = s.fifo

theorem State.LocalTo.of_unchanged {i : Nat} {s t : State} (hu : t.uarts = s.uarts) (hf : t.fifo = s.fifo) :
    State.LocalTo i s t :=
  ⟨fun j _ => State.uart_congr hu j, fun j => .of_eq (State.uart_congr hu j), hf⟩

theorem State.LocalTo.of_setUart {i : Nat} {s t : State} {u : Uart} (he : (s.uart i).Evolves u)
    (hu : t.uarts = s.uarts.set i u) (hf : t.fifo = s.fifo) : State.LocalTo i s t where
  others j hj := by rw [State.uart_congr (t := s.setUart i u) hu, State.setUart_uart_other u hj]
  evolves j := by rw [State.uart_congr (t := s.setUart i u) hu]; exact State.setUart_evolves he j
  fifo := hf

theorem State.LocalTo.trans {i : Nat} {s t u : State} (h : State.LocalTo i s t) (k : State.LocalTo i t u) :
    State.LocalTo i s u :=
  ⟨fun j hj => (k.others j hj).trans (h.others j hj), fun j => (h.evolves j).trans (k.evolves j), k.fifo.trans h.fifo⟩

theorem execSendUpdate_local {inst : Byte} {s t : State} (h : execSendUpdate inst s = .next t) :
    State.LocalTo inst.toNat s t := by
  obtain ⟨-, h⟩ := State.whenReady_next h
  split at h
  · cases h; exact .of_unchanged (by simp) (by simp)
  · split at h
    · cases h; exact .of_unchanged (by simp) (by simp)
    · cases h; exact .of_setUart (Uart.evolves_txDeq ‹_›) (by simp) (by simp)

theorem receiveData_local (err : Bool) (inst : Byte) (s : State) :
    State.LocalTo inst.toNat s (receiveData err inst s) := by
  unfold receiveData
  simp only
  split
  · exact .of_unchanged (by simp) (by simp)
  · split
    · exact .of_unchanged (by simp) (by simp)
    · rename_i rx hrx
      have huart := State.uart_congr (s.regRead_uarts inst.toNat .data) inst.toNat
      rw [huart] at hrx
      exact .of_setUart (Uart.evolves_rxPush hrx) (by simp [huart]) (by simp)

theorem execRecvUpdate_local {inst : Byte} {s t : State} (h : execRecvUpdate inst s = .next t) :
    State.LocalTo inst.toNat s t := by
  obtain ⟨-, h⟩ := State.whenReady_next h
  split at h
  · cases h; exact .of_unchanged (by simp) (by simp)
  · cases h
    unfold receiveSnapshot
    simp only
    split
    · have hrep : State.LocalTo inst.toNat s (lineReports s.answer inst (s.regRead inst.toNat .status)) :=
        .of_unchanged (by simp) (by simp)
      refine hrep.trans ?_
      rcases State.resume_cases (lineReports s.answer inst (s.regRead inst.toNat .status))
        (receiveData (lineError s.config s.answer) inst) with ⟨_, hk⟩ | ⟨_, hk⟩
      · rw [hk]; exact receiveData_local _ _ _
      · rw [hk]; exact .of_unchanged rfl rfl
    · exact .of_unchanged (by simp) (by simp)

theorem execSendByte_local {inst byte : Byte} {s t : State} (h : execSendByte inst byte s = .next t) :
    State.LocalTo inst.toNat s t := by
  obtain ⟨-, h⟩ := State.whenReady_next h
  split at h
  · cases h; exact .of_unchanged (by simp) (by simp)
  · split at h
    · cases h; exact .of_unchanged (by simp) (by simp)
    · cases h; exact .of_setUart (Uart.evolves_txEnq ‹_›) (by simp) (by simp)

theorem execRecvByte_local {pv : Bool} {inst : Byte} {s t : State} (h : execRecvByte pv inst s = .next t) :
    State.LocalTo inst.toNat s t := by
  obtain ⟨-, h⟩ := State.whenReady_next h
  split at h
  · cases h; exact .of_unchanged (by simp) (by simp)
  · split at h
    · cases h
    · split at h
      · cases h; exact .of_unchanged (by simp) (by simp)
      · cases h; exact .of_setUart (Uart.evolves_rxDeq ‹_›) (by simp) (by simp)

theorem execPeekLastByte_local {pv : Bool} {inst : Byte} {s t : State} (h : execPeekLastByte pv inst s = .next t) :
    State.LocalTo inst.toNat s t := by
  obtain ⟨-, h⟩ := State.whenReady_next h
  split at h
  · cases h; exact .of_unchanged (by simp) (by simp)
  · split at h
    · cases h
    · split at h <;> cases h <;> exact .of_unchanged (by simp) (by simp)

theorem execSendString_local {pv : Bool} {inst : Byte} {len : Len} {s t : State}
    (h : execSendString pv inst len s = .next t) : State.LocalTo inst.toNat s t := by
  obtain ⟨-, h⟩ := State.whenReady_next h
  split at h
  · exact .of_unchanged (stringEntry_same h).uarts (stringEntry_fifo h)
  · rcases sendIteration_next h with rfl | ⟨_, _, _, _, henq, rfl⟩
    · exact .of_unchanged (by simp) (by simp)
    · exact .of_setUart (Uart.evolves_txEnq henq) (by simp) (by simp)

theorem execRecvString_local {pv : Bool} {inst : Byte} {len : Len} {s t : State}
    (h : execRecvString pv inst len s = .next t) : State.LocalTo inst.toNat s t := by
  obtain ⟨-, h⟩ := State.whenReady_next h
  split at h
  · exact .of_unchanged (stringEntry_same h).uarts (stringEntry_fifo h)
  · rcases recvIteration_next h with rfl | ⟨_, _, _, hdeq, rfl⟩
    · exact .of_unchanged (by simp) (by simp)
    · exact .of_setUart (Uart.evolves_rxDeq hdeq) (by simp) (by simp)

/-- A command that names an instance changes that instance alone. -/
theorem exec_local {i : Instr} {inst : Byte} {s t : State} (hi : instOf i = some inst) (h : exec i s = .next t) :
    State.LocalTo inst.toNat s t := by
  cases i with
  | cbCreate | cbEnq _ | cbDeq | cbPeekLast | init _ => cases hi
  | sendUpdate _ => cases hi; exact execSendUpdate_local h
  | recvUpdate _ => cases hi; exact execRecvUpdate_local h
  | sendByte _ _ => cases hi; exact execSendByte_local h
  | recvByte _ _ => cases hi; exact execRecvByte_local h
  | sendString _ _ _ => cases hi; exact execSendString_local h
  | recvString _ _ _ => cases hi; exact execRecvString_local h
  | peekLastByte _ _ => cases hi; exact execPeekLastByte_local h

theorem execCbCreate_uarts {s t : State} (h : execCbCreate s = .next t) : t.uarts = s.uarts := by
  cases h; simp

theorem execCbEnq_uarts {x : Byte} {s t : State} (h : execCbEnq x s = .next t) : t.uarts = s.uarts := by
  unfold execCbEnq at h
  split at h <;> cases h <;> simp

theorem execCbDeq_uarts {s t : State} (h : execCbDeq s = .next t) : t.uarts = s.uarts := by
  unfold execCbDeq at h
  split at h <;> cases h <;> simp

theorem execCbPeekLast_uarts {s t : State} (h : execCbPeekLast s = .next t) : t.uarts = s.uarts := by
  unfold execCbPeekLast at h
  split at h <;> cases h <;> simp

/-- A primitive changes no instance. -/
theorem exec_primitive_uarts {i : Instr} {s t : State} (hi : i.format = .f) (h : exec i s = .next t) :
    t.uarts = s.uarts := by
  cases i with
  | cbCreate => exact execCbCreate_uarts h
  | cbEnq _ => exact execCbEnq_uarts h
  | cbDeq => exact execCbDeq_uarts h
  | cbPeekLast => exact execCbPeekLast_uarts h
  | init _ | sendUpdate _ | recvUpdate _ | sendByte _ _ | recvByte _ _ | sendString _ _ _ | recvString _ _ _
  | peekLastByte _ _ => cases hi

/-- An operation other than INIT is a driver command on an instance or a primitive. -/
theorem instOf_or_format_f {i : Instr} (hi : ∀ pv, i ≠ .init pv) :
    (∃ inst, instOf i = some inst) ∨ (instOf i = none ∧ i.format = .f) := by
  cases i with
  | init pv => exact absurd rfl (hi pv)
  | cbCreate | cbEnq _ | cbDeq | cbPeekLast => exact .inr ⟨rfl, rfl⟩
  | sendUpdate _ | recvUpdate _ | sendByte _ _ | recvByte _ _ | sendString _ _ _ | recvString _ _ _
  | peekLastByte _ _ => exact .inl ⟨_, rfl⟩

/-- Every instance has only evolved over an operation other than INIT. -/
theorem exec_evolves {i : Instr} {s t : State} (hi : ∀ pv, i ≠ .init pv) (h : exec i s = .next t) (j : Nat) :
    (s.uart j).Evolves (t.uart j) := by
  rcases instOf_or_format_f hi with ⟨inst, hinst⟩ | ⟨-, hf⟩
  · exact (exec_local hinst h).evolves j
  · exact .of_eq (State.uart_congr (exec_primitive_uarts hf h) j)

/-- Settles O42: an instance that has only evolved keeps its ready bit and its latches. -/
theorem onlyInitChangesReadyAndLatches : Obligations.OnlyInitChangesReadyAndLatches := by
  unfold Obligations.OnlyInitChangesReadyAndLatches
  intro i s t hi h j
  have hj := exec_evolves hi h j
  exact ⟨hj.ready, hj.baud, hj.stop, hj.par⟩

/-- Settles O43: a driver command is local to the instance it names, and a primitive names none. -/
theorem instancesAreIsolated : Obligations.InstancesAreIsolated := by
  unfold Obligations.InstancesAreIsolated
  intro i s t hi h
  rcases instOf_or_format_f hi with ⟨inst, hinst⟩ | ⟨-, hf⟩
  · have hloc := exec_local hinst h
    exact ⟨fun j hj => hloc.others j (hj inst hinst), fun _ => hloc.fifo⟩
  · exact ⟨fun j _ => State.uart_congr (exec_primitive_uarts hf h) j, fun hd => by rw [hf] at hd; cases hd⟩

end Sys2Proof.Machine

/-! What an admitted configuration gives the invariant: capacities in range, and exactly one record for each instance
(spec/00_scope.md R7, spec/41_init.md R144). -/

namespace Sys2Proof

/-- The configuration of the reset state is admitted. -/
theorem Config.standard_wf : Config.standard.wf = true := by decide

/-- There is at least one instance (spec/00_scope.md R6). -/
theorem Config.nInst_pos {c : Config} (h : c.wf = true) : 0 < c.nInst := by
  obtain ⟨hn, -⟩ := c.wf_iff.1 h
  simp only [Config.nInstOk, Bool.and_eq_true, decide_eq_true_eq] at hn
  exact hn.1

theorem Config.fifoCap_pos {c : Config} (h : c.wf = true) : 1 ≤ c.fifoCap := by
  obtain ⟨-, hc, -⟩ := c.wf_iff.1 h
  simp only [Config.capsOk, capOk, Bool.and_eq_true, decide_eq_true_eq] at hc
  exact hc.2.1

/-- The capacities of an instance are at least 1. -/
theorem Config.caps_pos {c : Config} (h : c.wf = true) {i : Nat} (hi : i < c.nInst) :
    1 ≤ (c.params.getD i ⟨0, 0, 0⟩).capTx ∧ 1 ≤ (c.params.getD i ⟨0, 0, 0⟩).capRx := by
  obtain ⟨-, hc, -⟩ := c.wf_iff.1 h
  have hi' : i < c.params.length := hi
  simp only [Config.capsOk, capOk, Bool.and_eq_true, List.all_eq_true, decide_eq_true_eq] at hc
  have hp := hc.1 _ (List.getElem_mem hi')
  simpa [hi'] using And.intro hp.1.1 hp.2.1

theorem Config.record_lt {c : Config} (h : c.wf = true) {r : CfgRecord} (hr : r ∈ c.table) :
    r.instanceId < c.nInst := by
  obtain ⟨-, -, -, -, hids, -⟩ := c.wf_iff.1 h
  simp only [Config.idsInRange, List.all_eq_true, decide_eq_true_eq] at hids
  exact hids r hr

theorem Config.ids_nodup {c : Config} (h : c.wf = true) : (c.table.map (·.instanceId)).Nodup := by
  obtain ⟨-, -, -, -, -, hd, -⟩ := c.wf_iff.1 h
  exact of_decide_eq_true hd

/-- `N_INST` distinct identifiers below `N_INST` are all of them: every instance has a record. -/
theorem Config.exists_record {c : Config} (h : c.wf = true) {i : Nat} (hi : i < c.nInst) :
    ∃ r ∈ c.table, r.instanceId = i := by
  obtain ⟨-, -, -, hlen, -⟩ := c.wf_iff.1 h
  have hsub : c.table.map (·.instanceId) ⊆ List.range c.nInst := fun j hj => by
    obtain ⟨r, hr, rfl⟩ := List.mem_map.1 hj
    exact List.mem_range.2 (Config.record_lt h hr)
  have hlen' : (List.range c.nInst).length ≤ (c.table.map (·.instanceId)).length := by
    rw [List.length_range, List.length_map, beq_iff_eq.1 hlen]
  have hperm := (List.subperm_of_subset (Config.ids_nodup h) hsub).perm_of_length_le hlen'
  exact List.mem_map.1 (hperm.mem_iff.2 (List.mem_range.2 hi))

end Sys2Proof

/-! When the invariant of a run passes from one state to another: along a frame, over instances that evolve, and at
reset. -/

namespace Sys2Proof.Machine

/-! ### The ready bits -/

theorem State.uart_eq_getElem {s : State} {i : Nat} (hi : i < s.uarts.length) : s.uart i = s.uarts[i] := by
  simp [State.uart, hi]

/-- The block is Ready exactly when some instance is. -/
theorem State.isReady_iff (s : State) : s.isReady = true ↔ ∃ i < s.uarts.length, (s.uart i).ready = true := by
  rw [State.isReady, List.any_eq_true]
  constructor
  · rintro ⟨u, hu, hr⟩
    obtain ⟨i, hi, rfl⟩ := List.getElem_of_mem hu
    exact ⟨i, hi, State.uart_eq_getElem hi ▸ hr⟩
  · rintro ⟨i, hi, hr⟩
    exact ⟨_, List.getElem_mem hi, State.uart_eq_getElem hi ▸ hr⟩

/-- Instances with the same ready bits make the same driver state. -/
theorem State.isReady_eq_of_ready {s t : State} (hl : t.uarts.length = s.uarts.length)
    (hr : ∀ j, (t.uart j).ready = (s.uart j).ready) : t.isReady = s.isReady :=
  Bool.eq_iff_iff.2 (by simp only [State.isReady_iff, hl, hr])

/-! ### Instances that evolve -/

/-- The invariant passes to a state whose instances have evolved and whose control registers read the same. -/
theorem State.Inv.of_evolves {s t : State} (h : s.Inv) (hc : t.config = s.config)
    (hl : t.uarts.length = s.uarts.length) (hu : ∀ j, (s.uart j).Evolves (t.uart j)) (hm : t.mem.wf)
    (hp : ∀ r ∈ s.config.table, s.programmed r → t.programmed r) (hf : t.fifo.buf.cap = s.fifo.buf.cap) : t.Inv := by
  have hready : t.isReady = s.isReady := State.isReady_eq_of_ready hl fun j => (hu j).ready
  refine ⟨⟨?_, ?_, ?_, ?_, ?_, hm⟩, ?_, ?_, ?_⟩
  · rw [hc]; exact h.config_wf
  · rw [hl, hc]; exact h.length
  · rw [hc]
    intro i hi
    obtain ⟨htx, hrx⟩ := h.fits i hi
    exact ⟨(hu i).txCap.trans htx, (hu i).rxCap.trans hrx⟩
  · rw [hf, hc]; exact h.fifo_fits
  · rw [hc, hready]
    exact fun i hi => (hu i).ready.trans (h.ready_eq i hi)
  · rw [hc, hready]
    exact fun hr i hi => (hu i).wf (h.uart_wf hr i hi)
  · rw [hc, hready]
    intro hr r hmem
    obtain ⟨hb, hs, hpar⟩ := h.configured hr r hmem
    exact ⟨(hu _).baud.trans hb, (hu _).stop.trans hs, (hu _).par.trans hpar⟩
  · rw [hc, hready]
    exact fun hr r hmem => hp r hmem (h.programmed hr r hmem)

theorem State.programmed_congr {s t : State} (hc : t.config = s.config) (hm : t.mem = s.mem) {r : CfgRecord} :
    t.programmed r ↔ s.programmed r := by
  unfold State.programmed
  rw [hc, hm]

/-- The invariant speaks of the configuration, the instances, the register space and the stand-alone buffer only. -/
theorem State.Inv.of_same {s t : State} (h : s.Inv) (k : s.SameBlock t) : t.Inv :=
  h.of_evolves k.config (by rw [k.uarts]) (fun j => .of_eq (State.uart_congr k.uarts j)) (k.mem ▸ h.mem_wf)
    (fun _ _ => (State.programmed_congr k.config k.mem).2) (by rw [k.buf])

theorem State.Inv.setUart {s : State} (h : s.Inv) {i : Nat} {u : Uart} (he : (s.uart i).Evolves u) :
    (s.setUart i u).Inv :=
  h.of_evolves rfl (by simp) (State.setUart_evolves he) h.mem_wf (fun _ _ => (State.programmed_congr rfl rfl).2) rfl

theorem State.Inv.setFifoBuf {s : State} (h : s.Inv) {b : Buffer} (hb : b.cap = s.fifo.buf.cap) :
    (s.setFifoBuf b).Inv :=
  h.of_evolves rfl rfl (fun _ => .refl _) h.mem_wf (fun _ _ => (State.programmed_congr rfl rfl).2) hb

/-- A write of `DATA` is to none of the control registers. -/
theorem State.Inv.regWrite_data {s : State} (h : s.Inv) {i : Nat} (hi : i < s.config.nInst) (v : Byte) :
    (s.regWrite i .data v).Inv := by
  obtain ⟨-, -, -, -, -, -, -, -, -, hoff, -, -, hwin, -⟩ := s.config.wf_iff.1 h.config_wf
  refine h.of_evolves rfl rfl (fun _ => .refl _) (Memory.write_wf _ _ h.mem_wf) (fun r hr hp => ?_) rfl
  have hne {g : Reg} (hg : g ≠ .data) : regAddr s.config r.instanceId g ≠ regAddr s.config i .data := fun heq =>
    hg (regAddr_inj hoff hwin (Config.record_lt h.config_wf hr) hi heq).2
  obtain ⟨hlow, hhigh, hfmt, hen⟩ := hp
  exact ⟨(Memory.read_write_other _ _ (hne (by decide))).trans hlow,
    (Memory.read_write_other _ _ (hne (by decide))).trans hhigh,
    (Memory.read_write_other _ _ (hne (by decide))).trans hfmt,
    (Memory.read_write_other _ _ (hne (by decide))).trans hen⟩

/-! ### Reset -/

/-- Blank instances are not Ready. -/
theorem State.isReady_blank {s : State} (h : s.uarts = s.config.params.map Uart.blank) : s.isReady = false := by
  simp [State.isReady, h, Uart.blank]

/-- The invariant holds of an Uninitialized block with blank instances (spec/10_state.md R41). -/
theorem State.Inv.of_blank {s : State} (hw : s.config.wf = true) (hu : s.uarts = s.config.params.map Uart.blank)
    (hf : s.fifo.buf = .blank s.config.fifoCap) (hm : s.mem.wf) : s.Inv := by
  have hnot := State.isReady_blank hu
  have hlen : s.uarts.length = s.config.nInst := by rw [hu, List.length_map]; rfl
  have huart (i : Nat) (hi : i < s.config.nInst) : s.uart i = .blank (s.config.params.getD i ⟨0, 0, 0⟩) := by
    have hi' : i < s.config.params.length := hi
    simp [State.uart, hu, hi']
  refine ⟨⟨hw, hlen, fun i hi => ?_, by rw [hf, Buffer.blank_cap], fun i hi => ?_, hm⟩, ?_, ?_, ?_⟩
  · rw [huart i hi]
    exact ⟨Buffer.blank_cap _, Buffer.blank_cap _⟩
  · rw [huart i hi, hnot]
    rfl
  all_goals
    intro hr
    rw [hnot] at hr
    cases hr

theorem State.hardReset_inv {s : State} (h : s.Inv) : s.hardReset.Inv :=
  .of_blank h.config_wf rfl rfl h.mem_wf

theorem State.resetWith_inv {c : Config} (h : c.wf = true) : (State.resetWith c).Inv :=
  .of_blank h rfl rfl Memory.nil_wf

/-- Settles O50: the reset state is that of the standard configuration, which is admitted. -/
theorem invariantAtReset : Obligations.InvariantAtReset := by
  unfold Obligations.InvariantAtReset
  exact ⟨State.resetWith_inv Config.standard_wf, fun _ => State.resetWith_inv⟩

/-- Settles O11: the instances of the reset state are the blank ones of its parameters. -/
theorem resetIsUninitialized : Obligations.ResetIsUninitialized := by
  unfold Obligations.ResetIsUninitialized
  refine ⟨fun u hu => ?_, List.length_map _, State.isReady_blank rfl⟩
  obtain ⟨p, -, rfl⟩ := List.mem_map.1 hu
  rfl

/-- Settles O52: the flags are comparisons of the count, with the capacity the invariant gives. -/
theorem flagOutputsFollowTheCounts : Obligations.FlagOutputsFollowTheCounts := by
  unfold Obligations.FlagOutputsFollowTheCounts
  intro s i p h hr hp
  have hi : i < s.config.nInst := (List.getElem?_eq_some_iff.1 hp).1
  obtain ⟨htx, hrx⟩ := h.fits i hi
  rw [List.getD_eq_getElem?_getD, hp, Option.getD_some] at htx hrx
  have hwf := h.uart_wf hr i hi
  exact ⟨_, _, _, _, rfl, htx ▸ Buffer.full_iff _, Buffer.empty_iff _, hrx ▸ Buffer.full_iff _, Buffer.empty_iff _,
    hwf.tx.full_and_empty, hwf.rx.full_and_empty⟩

end Sys2Proof.Machine

/-! INIT on an admitted configuration (spec/41_init.md R140, R142). -/

namespace Sys2Proof.Machine

/-! ### One record -/

@[simp] theorem initRecord_config (s : State) (r : CfgRecord) : (initRecord s r).config = s.config := rfl

@[simp] theorem initRecord_fifo (s : State) (r : CfgRecord) : (initRecord s r).fifo = s.fifo := rfl

@[simp] theorem initRecord_uarts (s : State) (r : CfgRecord) :
    (initRecord s r).uarts = s.uarts.set r.instanceId (initUart (s.uart r.instanceId) r) := rfl

theorem initRecord_mem_wf {s : State} (r : CfgRecord) (h : s.mem.wf) : (initRecord s r).mem.wf :=
  Memory.write_wf _ _ (Memory.write_wf _ _ (Memory.write_wf _ _ (Memory.write_wf _ _ h)))

theorem initRecord_uart_same {s : State} {r : CfgRecord} (h : r.instanceId < s.uarts.length) :
    (initRecord s r).uart r.instanceId = initUart (s.uart r.instanceId) r :=
  State.setUart_uart_same (initUart (s.uart r.instanceId) r) h

theorem initRecord_uart_other {s : State} {r : CfgRecord} {j : Nat} (h : r.instanceId ≠ j) :
    (initRecord s r).uart j = s.uart j :=
  State.setUart_uart_other (initUart (s.uart r.instanceId) r) h

/-- The work for a record writes no address but the control registers of its instance. -/
theorem initRecord_read_other {s : State} {r : CfgRecord} {a : Nat}
    (h : ∀ g, a ≠ regAddr s.config r.instanceId g) : (initRecord s r).mem.read a = s.mem.read a := by
  simp [initRecord, Memory.read_write, h]

/-- The work for a record leaves its instance's control registers with the bytes of spec/41_init.md R142. -/
theorem initRecord_programmed {s : State} (r : CfgRecord) (h : s.config.offsetsOk = true) :
    (initRecord s r).programmed r := by
  have haddr (g q : Reg) : regAddr s.config r.instanceId g = regAddr s.config r.instanceId q ↔ g = q :=
    ⟨fun heq => Reg.offset_inj h (Nat.add_left_cancel heq), fun heq => heq ▸ rfl⟩
  simp [State.programmed, initRecord, Memory.read_write, haddr]

/-! ### A list of records -/

section Fold

variable (l : List CfgRecord) (s : State)

theorem foldl_initRecord_config : (l.foldl initRecord s).config = s.config :=
  List.foldlRecOn (motive := fun t => t.config = s.config) l initRecord rfl fun _ h r _ =>
    (initRecord_config _ r).trans h

theorem foldl_initRecord_fifo : (l.foldl initRecord s).fifo = s.fifo :=
  List.foldlRecOn (motive := fun t => t.fifo = s.fifo) l initRecord rfl fun _ h r _ =>
    (initRecord_fifo _ r).trans h

theorem foldl_initRecord_length : (l.foldl initRecord s).uarts.length = s.uarts.length :=
  List.foldlRecOn (motive := fun t => t.uarts.length = s.uarts.length) l initRecord rfl fun _ h _ _ => by simp [h]

variable {l s}

theorem foldl_initRecord_mem_wf (h : s.mem.wf) : (l.foldl initRecord s).mem.wf :=
  List.foldlRecOn (motive := fun t => t.mem.wf) l initRecord h fun _ ht r _ => initRecord_mem_wf r ht

/-- The records of other instances leave an instance alone. -/
theorem foldl_initRecord_uart_other {j : Nat} (h : ∀ r ∈ l, r.instanceId ≠ j) :
    (l.foldl initRecord s).uart j = s.uart j :=
  List.foldlRecOn (motive := fun t => t.uart j = s.uart j) l initRecord rfl fun _ ht r hr =>
    (initRecord_uart_other (h r hr)).trans ht

/-- The records of other instances leave the bytes at an address none of them owns. -/
theorem foldl_initRecord_read_other {a : Nat} (h : ∀ r ∈ l, ∀ g, a ≠ regAddr s.config r.instanceId g) :
    (l.foldl initRecord s).mem.read a = s.mem.read a := by
  have hboth : (l.foldl initRecord s).config = s.config ∧ (l.foldl initRecord s).mem.read a = s.mem.read a :=
    List.foldlRecOn (motive := fun t => t.config = s.config ∧ t.mem.read a = s.mem.read a) l initRecord ⟨rfl, rfl⟩
      fun t ⟨hc, hread⟩ r hr => ⟨(initRecord_config t r).trans hc, (initRecord_read_other (hc ▸ h r hr)).trans hread⟩
  exact hboth.2

end Fold

/-- A record of a list with distinct identifiers splits it into records of other instances. -/
theorem exists_split_of_ids_nodup {l : List CfgRecord} {r : CfgRecord} (hr : r ∈ l)
    (hn : (l.map (·.instanceId)).Nodup) :
    ∃ l₁ l₂, l = l₁ ++ r :: l₂ ∧ (∀ q ∈ l₁, q.instanceId ≠ r.instanceId) ∧ ∀ q ∈ l₂, q.instanceId ≠ r.instanceId := by
  obtain ⟨l₁, l₂, rfl⟩ := List.append_of_mem hr
  rw [List.map_append, List.map_cons, List.nodup_middle, List.nodup_cons, List.mem_append, not_or] at hn
  exact ⟨l₁, l₂, rfl, fun q hq heq => hn.1.1 (heq ▸ List.mem_map_of_mem hq),
    fun q hq heq => hn.1.2 (heq ▸ List.mem_map_of_mem hq)⟩

/-! ### The whole table -/

section Table

variable {s : State} (hw : s.config.wf = true)
include hw

/-- INIT populates the instance of each record with the record. -/
theorem foldl_initRecord_uart {r : CfgRecord} (hr : r ∈ s.config.table) (hl : r.instanceId < s.uarts.length) :
    (s.config.table.foldl initRecord s).uart r.instanceId = initUart (s.uart r.instanceId) r := by
  obtain ⟨l₁, l₂, hsplit, hl₁, hl₂⟩ := exists_split_of_ids_nodup hr (Config.ids_nodup hw)
  rw [hsplit, List.foldl_append, List.foldl_cons, foldl_initRecord_uart_other hl₂,
    initRecord_uart_same (foldl_initRecord_length l₁ s ▸ hl), foldl_initRecord_uart_other hl₁]

/-- After INIT the control registers of every instance hold the bytes of its record: no later record of the table owns
one of their addresses. -/
theorem foldl_initRecord_programmed {r : CfgRecord} (hr : r ∈ s.config.table) :
    (s.config.table.foldl initRecord s).programmed r := by
  obtain ⟨-, -, -, -, -, -, -, -, -, hoff, -, -, hwin, -⟩ := s.config.wf_iff.1 hw
  obtain ⟨l₁, l₂, hsplit, -, hl₂⟩ := exists_split_of_ids_nodup hr (Config.ids_nodup hw)
  have hsub : ∀ q ∈ l₂, q ∈ s.config.table := fun q hq => by simp [hsplit, hq]
  rw [hsplit, List.foldl_append, List.foldl_cons]
  have hconf : (l₁.foldl initRecord s).config = s.config := foldl_initRecord_config l₁ s
  generalize l₁.foldl initRecord s = v at hconf ⊢
  have hread (g : Reg) : (l₂.foldl initRecord (initRecord v r)).mem.read (regAddr s.config r.instanceId g) =
      (initRecord v r).mem.read (regAddr s.config r.instanceId g) := by
    refine foldl_initRecord_read_other fun q hq g' heq => hl₂ q hq ?_
    rw [initRecord_config, hconf] at heq
    exact (regAddr_inj hoff hwin (Config.record_lt hw hr) (Config.record_lt hw (hsub q hq)) heq).1.symm
  have hv := initRecord_programmed (s := v) r (hconf ▸ hoff)
  simpa only [State.programmed, foldl_initRecord_config, initRecord_config, hconf, hread] using hv

end Table

/-- An instance INIT has populated meets its invariants: both buffers are empty (spec/10_state.md R21, R29). -/
theorem initUart_wf {u : Uart} (r : CfgRecord) (htx : 1 ≤ u.tx.cap) (hrx : 1 ≤ u.rx.cap) : (initUart u r).WF :=
  ⟨Buffer.create_wf htx, Buffer.create_wf hrx, fun h => absurd rfl h⟩

/-- INIT establishes the invariant from any state of the right shape. -/
theorem State.Shape.foldl_initRecord_inv {s : State} (h : s.Shape) : (s.config.table.foldl initRecord s).Inv := by
  have hconf := foldl_initRecord_config s.config.table s
  have hlen := foldl_initRecord_length s.config.table s
  have huart {i : Nat} (hi : i < s.config.nInst) : ∃ r ∈ s.config.table, r.instanceId = i ∧
      (s.config.table.foldl initRecord s).uart i = initUart (s.uart i) r := by
    obtain ⟨r, hr, rfl⟩ := Config.exists_record h.config_wf hi
    exact ⟨r, hr, rfl, foldl_initRecord_uart h.config_wf hr (h.length.symm ▸ hi)⟩
  have hready {i : Nat} (hi : i < s.config.nInst) :
      ((s.config.table.foldl initRecord s).uart i).ready = true := by
    obtain ⟨r, -, -, hu⟩ := huart hi
    rw [hu]
    rfl
  have hall : (s.config.table.foldl initRecord s).isReady = true :=
    (State.isReady_iff _).2 ⟨0, by rw [hlen, h.length]; exact Config.nInst_pos h.config_wf,
      hready (Config.nInst_pos h.config_wf)⟩
  refine ⟨⟨?_, ?_, ?_, ?_, ?_, foldl_initRecord_mem_wf h.mem_wf⟩, fun _ => ?_, fun _ => ?_, fun _ => ?_⟩
  · rw [hconf]; exact h.config_wf
  · rw [hlen, hconf]; exact h.length
  · rw [hconf]
    intro i hi
    obtain ⟨r, -, -, hu⟩ := huart hi
    rw [hu]
    exact h.fits i hi
  · rw [foldl_initRecord_fifo, hconf]; exact h.fifo_fits
  · rw [hconf, hall]
    exact fun i hi => hready hi
  · rw [hconf]
    intro i hi
    obtain ⟨r, -, -, hu⟩ := huart hi
    obtain ⟨htx, hrx⟩ := h.fits i hi
    obtain ⟨hptx, hprx⟩ := Config.caps_pos h.config_wf hi
    rw [hu]
    exact initUart_wf r (htx ▸ hptx) (hrx ▸ hprx)
  · rw [hconf]
    intro r hr
    rw [foldl_initRecord_uart h.config_wf hr (h.length.symm ▸ Config.record_lt h.config_wf hr)]
    exact ⟨rfl, rfl, rfl⟩
  · rw [hconf]
    exact fun r hr => foldl_initRecord_programmed h.config_wf hr

end Sys2Proof.Machine

/-! What one step can do to the block, and the invariants it keeps. -/

namespace Sys2Proof.Machine

/-- The choice of the next agent is no change of the block. -/
theorem State.nextAgent_same {s u : State} {a : Agent} (h : s.nextAgent = some (a, u)) : s.SameBlock u := by
  obtain ⟨rest, -, ⟨p, -, rfl⟩ | ⟨-, rfl⟩⟩ := State.nextAgent_some h
  · exact ⟨rfl, rfl, rfl, rfl⟩
  · exact ⟨rfl, rfl, rfl, rfl⟩

/-- A predicate of the block is kept by every step where a hardware reset and every effect of an operation keep it. -/
theorem step_keeps {P : State → Prop} (hsame : ∀ s t : State, s.SameBlock t → P s → P t)
    (hreset : ∀ s : State, s.config.wf = true → P s → P s.hardReset)
    (heffect : ∀ s t : State, Effect s t → P s → P t) {s t : State} (hs : P s) (h : step s = .next t) : P t := by
  obtain ⟨hw, -, ⟨-, rfl⟩ | ⟨a, u, hu, ha⟩⟩ := step_next h
  · exact hs
  · have hsu := State.nextAgent_same hu
    have hPu := hsame s u hsu hs
    rcases agentStep_next ha with ⟨-, -, rfl⟩ | ⟨-, rfl⟩ | ⟨w, i, -, -, hexec⟩
    · exact hreset u (hsu.config ▸ hw) hPu
    · exact hPu
    · exact heffect u t (exec_effect hexec) hPu

/-! ### The stand-alone buffer -/

theorem Buffer.blank_wf {n : Nat} (h : 1 ≤ n) : (Buffer.blank n).WF :=
  Buffer.create_wf (b := Buffer.blank n) ((Buffer.blank_cap n).symm ▸ h)

/-- What a primitive makes of the stand-alone buffer keeps its capacity. -/
theorem fifo_effect_cap {b b' : Buffer}
    (h : b' = b.create ∨ (∃ x, b.enq x = some b') ∨ ∃ x, b.deq = some (x, b')) : b'.cap = b.cap := by
  rcases h with rfl | ⟨x, h⟩ | ⟨x, h⟩
  · exact b.create_cap
  · exact Buffer.enq_cap h
  · exact Buffer.deq_cap h

/-- What a primitive makes of the stand-alone buffer keeps the buffer invariant. -/
theorem fifo_effect_wf {b b' : Buffer} (hb : b.WF)
    (h : b' = b.create ∨ (∃ x, b.enq x = some b') ∨ ∃ x, b.deq = some (x, b')) : b'.WF := by
  rcases h with rfl | ⟨x, h⟩ | ⟨x, h⟩
  · exact Buffer.create_wf hb.cap_pos
  · exact Buffer.enq_wf hb h
  · exact Buffer.deq_wf hb h

/-- Only a primitive touches the stand-alone buffer. -/
theorem Effect.fifo_buf_wf {s t : State} (h : Effect s t) (hs : s.fifo.buf.WF) : t.fifo.buf.WF := by
  cases h with
  | same h | txEnq _ _ _ _ _ h | txLost _ _ _ _ _ _ h | txSent _ _ _ _ _ _ h | rxPush _ _ _ _ _ h
  | rxDeq _ _ _ _ _ h =>
    rw [h.buf]
    exact hs
  | fifo b hb h =>
    rw [h.buf]
    exact fifo_effect_wf hs hb
  | init h =>
    rw [h.buf, foldl_initRecord_fifo]
    exact hs

/-- Settles O19: reset leaves an empty buffer of an admitted capacity, and an operation at most runs a primitive. -/
theorem standAloneBufferInvariantKept : Obligations.StandAloneBufferInvariantKept := by
  unfold Obligations.StandAloneBufferInvariantKept
  intro s t
  exact step_keeps (P := fun s => s.fifo.buf.WF) (fun _ _ k h => k.buf.symm ▸ h)
    (fun _ hw _ => Buffer.blank_wf (Config.fifoCap_pos hw)) fun _ _ => Effect.fifo_buf_wf

/-! ### The invariant of a run -/

theorem State.badInst_eq_false {s : State} {inst : Byte} (h : s.badInst inst = false) : inst.toNat < s.config.nInst :=
  Nat.not_le.1 (of_decide_eq_false h)

/-- Every effect of an operation keeps the invariant: instances only evolve, but INIT makes them anew. -/
theorem Effect.inv {s t : State} (h : Effect s t) (hs : s.Inv) : t.Inv := by
  cases h with
  | same h => exact hs.of_same h
  | txEnq _ _ _ _ henq h => exact (hs.setUart (Uart.evolves_txEnq henq)).of_same h
  | txLost _ _ _ _ _ hdeq h => exact (hs.setUart (Uart.evolves_txDeq hdeq)).of_same h
  | txSent _ _ _ _ hn hdeq h =>
    exact ((hs.setUart (Uart.evolves_txDeq hdeq)).regWrite_data (State.badInst_eq_false hn) _).of_same h
  | rxPush _ _ _ _ henq h => exact (hs.setUart (Uart.evolves_rxPush henq)).of_same h
  | rxDeq _ _ _ _ hdeq h => exact (hs.setUart (Uart.evolves_rxDeq hdeq)).of_same h
  | fifo _ hb h => exact (hs.setFifoBuf (fifo_effect_cap hb)).of_same h
  | init h => exact hs.toShape.foldl_initRecord_inv.of_same h

/-- Settles O49: the invariant is of the block alone, holds after reset, and every effect of an operation keeps it. -/
theorem invariantKept : Obligations.InvariantKept := by
  unfold Obligations.InvariantKept
  intro s t hs
  exact step_keeps (P := State.Inv) (fun _ _ k h => h.of_same k) (fun _ _ => State.hardReset_inv)
    (fun _ _ => Effect.inv) hs

end Sys2Proof.Machine

/-! A step runs the presented command, and the refusals of a command whose caller's bytes are too short
(spec/20_memory.md R68, R69, R76). -/

namespace Sys2Proof.Machine

theorem runWord_decoded {w : CmdWord} {i : Instr} (s : State) (h : decode w = .ok i) : runWord w s = exec i s := by
  simp [runWord, h]

/-- Settles O6: the step is the next agent's, and a port runs what it decodes from its first word. -/
theorem stepRunsTheDecodedCommand : Obligations.StepRunsTheDecodedCommand := by
  unfold Obligations.StepRunsTheDecodedCommand
  refine ⟨fun s p rest c q i hw hh hs hq hd => ?_, fun s rest w q i hw hh hs hq hd => ?_⟩
  · rw [step_agent hw hh (State.nextAgent_port hs)]
    exact (agentStep_port ((s.queue_with_turn rest p p).trans hq)).trans (runWord_decoded _ hd)
  · rw [step_agent hw hh (State.nextAgent_fifo hs)]
    exact (agentStep_fifo (s := { s with sched := rest }) hq).trans (runWord_decoded _ hd)

/-! ### Short extents -/

theorem State.badArgs_eq_false {s : State} {inst : Byte} (h : inst.toNat < s.config.nInst) :
    s.badArgs true inst = false := by simp [State.badArgs, State.badInst, h]

theorem stringEntry_short {pv : Bool} {inst : Byte} {len : Len} {op : Byte} {extent : Nat} {s : State}
    (ha : s.badArgs pv inst = false) (he : extent < len.toNat) :
    stringEntry pv inst len op extent s = .refused .badExtent := by
  have hlen : len.toNat ≠ 0 := by omega
  simp [stringEntry, hlen, ha, he]

section Short

variable {s : State} {pv : Bool} {inst : Byte} (hr : s.isReady = true) (ha : s.badArgs pv inst = false)
include hr ha

theorem execRecvByte_short (hd : s.cmd.dst.length < 1) : execRecvByte pv inst s = .refused .badExtent := by
  rw [execRecvByte, State.whenReady_ready _ hr, ha, if_neg Bool.false_ne_true, if_pos hd]

theorem execPeekLastByte_short (hd : s.cmd.dst.length < 1) : execPeekLastByte pv inst s = .refused .badExtent := by
  rw [execPeekLastByte, State.whenReady_ready _ hr, ha, if_neg Bool.false_ne_true, if_pos hd]

theorem execSendString_short {len : Len} (hp : s.cmd.progress = none) (he : s.cmd.src.length < len.toNat) :
    execSendString pv inst len s = .refused .badExtent := by
  rw [execSendString, State.whenReady_ready _ hr, hp]
  exact stringEntry_short ha he

theorem execRecvString_short {len : Len} (hp : s.cmd.progress = none) (he : s.cmd.dst.length < len.toNat) :
    execRecvString pv inst len s = .refused .badExtent := by
  rw [execRecvString, State.whenReady_ready _ hr, hp]
  exact stringEntry_short ha he

end Short

/-- Settles O31: with valid arguments each command comes to its check of the extent. -/
theorem shortExtentsRefused : Obligations.ShortExtentsRefused := by
  unfold Obligations.ShortExtentsRefused
  intro s inst len hr hi hp
  have ha := State.badArgs_eq_false hi
  exact ⟨fun hd => ⟨execRecvByte_short hr ha hd, execPeekLastByte_short hr ha hd⟩,
    execSendString_short hr ha hp, execRecvString_short hr ha hp⟩

end Sys2Proof.Machine

/-! What a command does to the commands presented on the ports and to the register space, followed through its course:
it is still running, at its old index or at one below its length, until it returns (spec/20_memory.md R69, R75,
spec/10_state.md R37, spec/42_update.md R161). -/

namespace Sys2Proof

/-- The length of a string command; any other operation moves no index. -/
def Instr.stringLength : Instr → Nat
  | .sendString _ _ len | .recvString _ _ len => len.toNat
  | .cbCreate | .cbEnq _ | .cbDeq | .cbPeekLast | .init _ | .sendUpdate _ | .recvUpdate _ | .sendByte _ _
  | .recvByte _ _ | .peekLastByte _ _ => 0

end Sys2Proof

namespace Sys2Proof.Machine

/-! ### A command that is still running -/

/-- The command keeps its word and its source; its index is the old one or below `n`. -/
structure Command.Continues (n : Nat) (c d : Command) : Prop where
  word     : d.word = c.word
  src      : d.src = c.src
  progress : d.progress = c.progress ∨ ∃ k < n, d.progress = some k

theorem Command.Continues.refl (n : Nat) (c : Command) : c.Continues n c := ⟨rfl, rfl, .inl rfl⟩

theorem Command.Continues.trans {n : Nat} {c d e : Command} (h : c.Continues n d) (k : d.Continues n e) :
    c.Continues n e :=
  ⟨k.word.trans h.word, k.src.trans h.src, k.progress.elim (fun hk => hk ▸ h.progress) .inr⟩

/-- The first command of the queue continues and the later ones are as they were. -/
inductive HeadContinues (n : Nat) : List Command → List Command → Prop
  | nil : HeadContinues n [] []
  | cons {c d : Command} {q : List Command} (h : c.Continues n d) : HeadContinues n (c :: q) (d :: q)

theorem HeadContinues.refl (n : Nat) : (q : List Command) → HeadContinues n q q
  | [] => .nil
  | c :: _ => .cons (.refl n c)

theorem HeadContinues.trans {n : Nat} {q q' q'' : List Command} (h : HeadContinues n q q')
    (k : HeadContinues n q' q'') : HeadContinues n q q'' := by
  cases h with
  | nil => exact k
  | cons h => cases k with | cons k => exact .cons (h.trans k)

theorem HeadContinues.tail_eq {n : Nat} {q q' : List Command} (h : HeadContinues n q q') : q'.tail = q.tail := by
  cases h <;> rfl

/-- From `s` to `t` the running command has written no address outside `W` and moved its index to none but those below
`n`, and it has not returned. -/
structure State.Running (W : Nat → Prop) (n : Nat) (s t : State) : Prop where
  config : t.config = s.config
  turn   : t.turn = s.turn
  reads  : ∀ a, ¬ W a → t.mem.read a = s.mem.read a
  others : ∀ p, p ≠ s.turn → t.queue p = s.queue p
  own    : HeadContinues n (s.queue s.turn) (t.queue s.turn)

/-- From `s` to `t` a step of the running command has written no address outside `W`, and the command has returned or is
still running (it is for good where the reporter does not return, spec/60_exceptions.md R215). -/
structure State.Served (W : Nat → Prop) (n : Nat) (s t : State) : Prop where
  reads  : ∀ a, ¬ W a → t.mem.read a = s.mem.read a
  others : ∀ p, p ≠ s.turn → t.queue p = s.queue p
  own    : t.queue s.turn = (s.queue s.turn).tail ∨ HeadContinues n (s.queue s.turn) (t.queue s.turn)

/-! ### One rule per shared operation -/

section Rules

variable {W : Nat → Prop} {n : Nat} {s t u : State}

theorem State.Running.refl (s : State) : State.Running W n s s := ⟨rfl, rfl, fun _ _ => rfl, fun _ _ => rfl, .refl n _⟩

theorem State.Running.trans (h : State.Running W n s t) (k : State.Running W n t u) : State.Running W n s u where
  config := k.config.trans h.config
  turn := k.turn.trans h.turn
  reads a ha := (k.reads a ha).trans (h.reads a ha)
  others p hp := (k.others p (h.turn.symm ▸ hp)).trans (h.others p hp)
  own := h.own.trans (h.turn ▸ k.own)

/-- What touches neither the register space nor a queue leaves the command running. -/
theorem State.Running.of_unchanged (hc : t.config = s.config) (hm : t.mem = s.mem) (hu : t.turn = s.turn)
    (hf : t.fg = s.fg) (ht : t.tick = s.tick) : State.Running W n s t :=
  ⟨hc, hu, fun _ _ => by rw [hm], fun p _ => State.queue_congr hf ht p, State.queue_congr hf ht s.turn ▸ .refl n _⟩

/-- Replacing the running command by what it continues as. -/
theorem State.running_setCmd {c : Command} (h : s.cmd.Continues n c) : State.Running W n s (s.setCmd c) := by
  refine ⟨s.setCmd_config c, s.setCmd_turn c, fun _ _ => by rw [s.setCmd_mem], fun p => s.setCmd_queue_other c, ?_⟩
  rw [State.setCmd_queue]
  unfold State.cmd at h
  cases hq : s.queue s.turn with
  | nil => exact .nil
  | cons c' q => exact .cons (by simpa [hq] using h)

theorem State.running_emit (s : State) (e : Event) : State.Running W n s (s.emit e) :=
  .of_unchanged rfl rfl rfl rfl rfl

theorem State.running_outWrite (s : State) (k : Nat) (b : Byte) : State.Running W n s (s.outWrite k b) :=
  (State.running_setCmd (c := { s.cmd with dst := s.cmd.dst.set k b }) ⟨rfl, rfl, .inl rfl⟩).trans
    (State.running_emit _ _)

/-- The index of the running command moves to one below `n`. -/
theorem State.running_advance {k : Nat} (h : k < n) : State.Running W n s (s.advance k) :=
  State.running_setCmd ⟨rfl, rfl, .inr ⟨k, h, rfl⟩⟩

theorem State.running_report (s : State) (k : ErrorKind) (inst op : Byte) :
    State.Running W n s (s.report k inst op) := .of_unchanged rfl rfl rfl rfl rfl

theorem State.running_regRead (s : State) (i : Nat) (r : Reg) : State.Running W n s (s.regRead i r) :=
  .of_unchanged (s.regRead_config i r) (s.regRead_mem i r) (s.regRead_turn i r) (s.regRead_fg i r)
    (s.regRead_tick i r)

theorem State.running_setUart (s : State) (i : Nat) (u : Uart) : State.Running W n s (s.setUart i u) :=
  .of_unchanged rfl rfl rfl rfl rfl

/-- A register write at an address that may be written. -/
theorem State.running_regWrite {i : Nat} {r : Reg} (v : Byte) (h : W (regAddr s.config i r)) :
    State.Running W n s (s.regWrite i r v) where
  config := rfl
  turn := rfl
  reads _ ha := Memory.read_write_other _ _ fun heq => ha (heq ▸ h)
  others p _ := s.regWrite_queue i r v p
  own := s.regWrite_queue i r v s.turn ▸ .refl n _

theorem State.running_resume {f : State → State} (hf : ∀ s, State.Running W n s (f s)) :
    State.Running W n s (s.resume f) := by
  rcases State.resume_cases s f with ⟨-, h⟩ | ⟨-, h⟩
  · rw [h]; exact hf s
  · rw [h]; exact .refl s

theorem State.Running.served (h : State.Running W n s t) : State.Served W n s t := ⟨h.reads, h.others, .inr h.own⟩

/-- The return takes the running command off its queue. -/
theorem State.served_ret (s : State) (r : Result) : State.Served W n s (s.ret r) where
  reads _ _ := by rw [s.ret_mem]
  others p hp := by rw [s.ret_queue, if_neg hp]
  own := .inl (by rw [s.ret_queue, if_pos rfl])

theorem State.Running.trans_served (h : State.Running W n s t) (k : State.Served W n t u) : State.Served W n s u where
  reads a ha := (k.reads a ha).trans (h.reads a ha)
  others p hp := (k.others p (h.turn.symm ▸ hp)).trans (h.others p hp)
  own := by
    have hown := k.own
    rw [h.turn] at hown
    exact hown.imp (fun ht => ht.trans h.own.tail_eq) h.own.trans

theorem State.served_resume {f : State → State} (hf : ∀ s, State.Served W n s (f s)) :
    State.Served W n s (s.resume f) := by
  rcases State.resume_cases s f with ⟨-, h⟩ | ⟨-, h⟩
  · rw [h]; exact hf s
  · rw [h]; exact (State.Running.refl s).served

theorem State.served_paramError (s : State) (inst op : Byte) (r : Result) :
    State.Served W n s (s.paramError inst op r) :=
  (s.running_report _ _ _).trans_served (State.served_resume fun s => s.served_ret r)

end Rules

/-! ### The commands -/

section Commands

variable {W : Nat → Prop} {n : Nat} {s t : State}

theorem stringMoved_served (len : Len) (k : Nat) (s : State) : State.Served W len.toNat s (stringMoved len k s) := by
  rcases stringMoved_cases len k s with ⟨hk, h⟩ | ⟨-, h⟩
  · exact h ▸ (State.running_advance hk).served
  · exact h ▸ s.served_ret _

theorem stringEntry_served {pv : Bool} {inst : Byte} {len : Len} {op : Byte} {extent : Nat}
    (h : stringEntry pv inst len op extent s = .next t) : State.Served W len.toNat s t := by
  rcases stringEntry_next h with ⟨-, rfl⟩ | ⟨-, -, rfl⟩ | ⟨hlen, -, -, rfl⟩
  · exact s.served_ret _
  · exact s.served_paramError _ _ _
  · exact (State.running_advance (Nat.pos_of_ne_zero hlen)).served

theorem execSendString_served {pv : Bool} {inst : Byte} {len : Len} (h : execSendString pv inst len s = .next t) :
    State.Served W len.toNat s t := by
  obtain ⟨-, h⟩ := State.whenReady_next h
  split at h
  · exact stringEntry_served h
  · rcases sendIteration_next h with rfl | ⟨_, _, -, -, -, rfl⟩
    · exact s.served_ret _
    · exact (s.running_setUart _ _).trans_served (stringMoved_served _ _ _)

theorem execRecvString_served {pv : Bool} {inst : Byte} {len : Len} (h : execRecvString pv inst len s = .next t) :
    State.Served W len.toNat s t := by
  obtain ⟨-, h⟩ := State.whenReady_next h
  split at h
  · exact stringEntry_served h
  · rcases recvIteration_next h with rfl | ⟨_, _, -, -, rfl⟩
    · exact s.served_ret _
    · exact ((s.running_setUart _ _).trans (State.running_outWrite _ _ _)).trans_served (stringMoved_served _ _ _)

theorem execSendByte_served {inst byte : Byte} (h : execSendByte inst byte s = .next t) : State.Served W n s t := by
  obtain ⟨-, h⟩ := State.whenReady_next h
  split at h
  · cases h; exact s.served_paramError _ _ _
  · split at h
    · cases h; exact s.served_ret _
    · cases h; exact (s.running_setUart _ _).trans_served (State.served_ret _ _)

theorem execRecvByte_served {pv : Bool} {inst : Byte} (h : execRecvByte pv inst s = .next t) :
    State.Served W n s t := by
  obtain ⟨-, h⟩ := State.whenReady_next h
  split at h
  · cases h; exact s.served_paramError _ _ _
  · split at h
    · cases h
    · split at h
      · cases h; exact s.served_ret _
      · cases h
        exact ((s.running_setUart _ _).trans (State.running_outWrite _ _ _)).trans_served (State.served_ret _ _)

theorem execPeekLastByte_served {pv : Bool} {inst : Byte} (h : execPeekLastByte pv inst s = .next t) :
    State.Served W n s t := by
  obtain ⟨-, h⟩ := State.whenReady_next h
  split at h
  · cases h; exact s.served_paramError _ _ _
  · split at h
    · cases h
    · split at h
      · cases h; exact s.served_ret _
      · cases h; exact (s.running_outWrite _ _).trans_served (State.served_ret _ _)

/-- SEND_UPDATE writes `DATA` of its instance at most. -/
theorem execSendUpdate_served {inst : Byte} (hW : W (regAddr s.config inst.toNat .data))
    (h : execSendUpdate inst s = .next t) : State.Served W n s t := by
  obtain ⟨-, h⟩ := State.whenReady_next h
  split at h
  · cases h; exact s.served_paramError _ _ _
  · split at h
    · cases h; exact s.served_ret _
    · cases h
      rename_i b tx _
      have hset : State.Running W n s (s.setTx inst.toNat tx) := s.running_setUart _ _
      have hread := hset.trans (State.running_regRead _ inst.toNat .status)
      refine hread.trans_served ?_
      unfold sendDequeued
      split
      · exact (State.running_regWrite b (hread.config.symm ▸ hW)).trans_served (State.served_ret _ _)
      · exact (State.running_report _ _ _ _).trans_served (State.served_resume fun s => s.served_ret _)

theorem reportIf_running (flag : Bool) (k : ErrorKind) (inst : Byte) (s : State) :
    State.Running W n s (reportIf flag k inst s) := by
  cases flag
  · exact .refl s
  · exact s.running_report _ _ _

theorem lineReports_running (v inst : Byte) (s : State) : State.Running W n s (lineReports v inst s) :=
  ((reportIf_running _ _ _ s).trans (State.running_resume (reportIf_running _ _ _))).trans
    (State.running_resume (reportIf_running _ _ _))

theorem receiveData_served (err : Bool) (inst : Byte) (s : State) : State.Served W n s (receiveData err inst s) := by
  refine (s.running_regRead inst.toNat .data).trans_served ?_
  unfold receiveData
  simp only
  split
  · exact State.served_ret _ _
  · split
    · exact State.served_ret _ _
    · exact (State.running_setUart _ _ _).trans_served (State.served_ret _ _)

theorem execRecvUpdate_served {inst : Byte} (h : execRecvUpdate inst s = .next t) : State.Served W n s t := by
  obtain ⟨-, h⟩ := State.whenReady_next h
  split at h
  · cases h; exact s.served_paramError _ _ _
  · cases h
    refine (s.running_regRead inst.toNat .status).trans_served ?_
    unfold receiveSnapshot
    simp only
    split
    · exact (lineReports_running _ _ _).trans_served (State.served_resume (receiveData_served _ _))
    · exact State.served_ret _ _

/-- The work of INIT for a record writes the control registers of its instance. -/
theorem initRecord_running {r : CfgRecord} (hr : r ∈ s.config.table) :
    State.Running (mayWrite s.config (.init true)) n s (initRecord s r) := by
  have hW {g : Reg} (hg : g ∈ [Reg.baudL, .baudH, .fmt, .en]) :
      mayWrite s.config (.init true) (regAddr s.config r.instanceId g) := ⟨r, hr, g, hg, rfl⟩
  exact ((((s.running_setUart _ _).trans (State.running_regWrite _ (hW (by decide)))).trans
    (State.running_regWrite _ (hW (by decide)))).trans (State.running_regWrite _ (hW (by decide)))).trans
    (State.running_regWrite _ (hW (by decide)))

theorem foldl_initRecord_running (s : State) :
    State.Running (mayWrite s.config (.init true)) n s (s.config.table.foldl initRecord s) :=
  List.foldlRecOn (motive := State.Running (mayWrite s.config (.init true)) n s) s.config.table initRecord (.refl s)
    fun _ h _ hr => h.trans (h.config ▸ initRecord_running (h.config.symm ▸ hr))

theorem execInit_served {pv : Bool} (h : execInit pv s = .next t) :
    State.Served (mayWrite s.config (.init pv)) n s t := by
  cases pv <;> cases h
  · exact s.served_paramError _ _ _
  · exact (foldl_initRecord_running s).trans_served (State.served_ret _ _)

/-! A primitive is no command of a driver port: the running command, if there is one, stays. -/

theorem execCbCreate_running (h : execCbCreate s = .next t) : State.Running W n s t := by
  cases h
  exact .of_unchanged rfl rfl rfl rfl rfl

theorem execCbEnq_running {x : Byte} (h : execCbEnq x s = .next t) : State.Running W n s t := by
  unfold execCbEnq at h
  split at h <;> cases h <;> exact .of_unchanged rfl rfl rfl rfl rfl

theorem execCbDeq_running (h : execCbDeq s = .next t) : State.Running W n s t := by
  unfold execCbDeq at h
  split at h <;> cases h <;> exact .of_unchanged rfl rfl rfl rfl rfl

theorem execCbPeekLast_running (h : execCbPeekLast s = .next t) : State.Running W n s t := by
  unfold execCbPeekLast at h
  split at h <;> cases h <;> exact .of_unchanged rfl rfl rfl rfl rfl

end Commands

/-- All that an operation can do to the register space and to the commands presented. -/
theorem exec_served {i : Instr} {s t : State} (h : exec i s = .next t) :
    State.Served (mayWrite s.config i) i.stringLength s t := by
  cases i with
  | cbCreate => exact (execCbCreate_running h).served
  | cbEnq _ => exact (execCbEnq_running h).served
  | cbDeq => exact (execCbDeq_running h).served
  | cbPeekLast => exact (execCbPeekLast_running h).served
  | init _ => exact execInit_served h
  | sendUpdate _ => exact execSendUpdate_served rfl h
  | recvUpdate _ => exact execRecvUpdate_served h
  | sendByte _ _ => exact execSendByte_served h
  | recvByte _ _ => exact execRecvByte_served h
  | sendString _ _ _ => exact execSendString_served h
  | recvString _ _ _ => exact execRecvString_served h
  | peekLastByte _ _ => exact execPeekLastByte_served h

/-- Settles O45: a step of a command writes no address but those it may write. -/
theorem registerSpaceFrame : Obligations.RegisterSpaceFrame := by
  unfold Obligations.RegisterSpaceFrame
  intro i s t h
  exact (exec_served h).reads

end Sys2Proof.Machine

/-! The index of a string command over one step (spec/10_state.md R37, R39). -/

namespace Sys2Proof

theorem needZero_ok {zero : Bool} {i j : Instr} (h : needZero zero i = .ok j) : j = i := by
  unfold needZero at h
  split at h <;> cases h
  rfl

theorem needNoPointer_ok {w : Word} {zero : Bool} {i j : Instr} (h : needNoPointer w zero i = .ok j) : j = i := by
  unfold needNoPointer at h
  split at h
  · cases h
  · exact needZero_ok h

theorem needNoByte_ok {w : FWord} {i j : Instr} (h : needNoByte w i = .ok j) : j = i := by
  unfold needNoByte at h
  split at h <;> cases h
  rfl

/-- A string command's length is the operand field of its word. -/
theorem decodeRow_stringLength {w : Word} {i : Instr} (h : decodeRow w = .ok i) :
    i.stringLength ≤ (operandField w).toNat := by
  unfold decodeRow at h
  split at h
  · exact needZero_ok h ▸ Nat.zero_le _
  · exact needNoPointer_ok h ▸ Nat.zero_le _
  · exact needNoPointer_ok h ▸ Nat.zero_le _
  · exact needNoPointer_ok h ▸ Nat.zero_le _
  · exact needZero_ok h ▸ Nat.zero_le _
  · cases h; exact Nat.le_refl _
  · cases h; exact Nat.le_refl _
  · exact needZero_ok h ▸ Nat.zero_le _
  · cases h

theorem decodeD_stringLength {w : Word} {i : Instr} (h : decodeD w = .ok i) :
    i.stringLength ≤ (operandField w).toNat := by
  unfold decodeD at h
  split at h
  · cases h
  · split at h
    · cases h
    · exact decodeRow_stringLength h

/-- The stand-alone buffer's port has no string commands. -/
theorem decodeF_stringLength {w : FWord} {i : Instr} (h : decodeF w = .ok i) : i.stringLength = 0 := by
  unfold decodeF at h
  split at h
  · rw [needNoByte_ok h]; rfl
  · cases h; rfl
  · rw [needNoByte_ok h]; rfl
  · rw [needNoByte_ok h]; rfl

end Sys2Proof

namespace Sys2Proof.Machine

/-- Every presented command that is inside its loop is at an index below its length. -/
def State.IndicesOk (s : State) : Prop := ∀ p, ∀ c ∈ s.queue p, c.indexOk

theorem State.IndicesOk.of_queues {s t : State} (h : s.IndicesOk) (hf : t.fg = s.fg) (ht : t.tick = s.tick) :
    t.IndicesOk := fun p c hc => h p c (State.queue_congr hf ht p ▸ hc)

theorem Command.Continues.indexOk {n : Nat} {c d : Command} (h : c.Continues n d) (hc : c.indexOk)
    (hn : n ≤ (operandField c.word).toNat) : d.indexOk := by
  intro k hk
  rw [h.word]
  rcases h.progress with hp | ⟨j, hj, hp⟩
  · exact hc k (hp ▸ hk)
  · rw [hp, Option.some.injEq] at hk
    omega

/-- Where the first command continues below its length, the queue's indices stay below theirs. -/
theorem HeadContinues.indexOk {n : Nat} {q q' : List Command} (h : HeadContinues n q q') (hq : ∀ c ∈ q, c.indexOk)
    (hn : ∀ c ∈ q.head?, n ≤ (operandField c.word).toNat) : ∀ c ∈ q', c.indexOk := by
  cases h with
  | nil => exact hq
  | cons h =>
    obtain ⟨hc, hrest⟩ := List.forall_mem_cons.1 hq
    exact List.forall_mem_cons.2 ⟨h.indexOk hc (hn _ rfl), hrest⟩

theorem State.Served.indicesOk {W : Nat → Prop} {n : Nat} {s t : State} (h : State.Served W n s t) (hs : s.IndicesOk)
    (hn : ∀ c ∈ (s.queue s.turn).head?, n ≤ (operandField c.word).toNat) : t.IndicesOk := by
  intro p
  by_cases hp : p = s.turn
  · subst hp
    rcases h.own with hret | hcont
    · rw [hret]
      exact fun c hc => hs _ c (List.mem_of_mem_tail hc)
    · exact hcont.indexOk (hs _) hn
  · rw [h.others p hp]
    exact hs p

/-- The operation an agent fetches is of the length its port's first command names. -/
theorem fetch_stringLength {s u : State} {a : Agent} {w : CmdWord} {i : Instr} (hu : s.nextAgent = some (a, u))
    (hf : u.fetch a = some w) (hd : decode w = .ok i) :
    ∀ c ∈ (u.queue u.turn).head?, i.stringLength ≤ (operandField c.word).toNat := by
  intro c hc
  obtain ⟨rest, -, ⟨p, rfl, rfl⟩ | ⟨hne, -⟩⟩ := State.nextAgent_some hu
  · obtain ⟨c', hc', rfl⟩ := Option.map_eq_some_iff.1 hf
    obtain rfl : c' = c := Option.mem_unique hc' hc
    exact decodeD_stringLength hd
  · cases a with
    | port p => exact absurd rfl (hne p)
    | fifo =>
      obtain ⟨w', -, rfl⟩ := Option.map_eq_some_iff.1 hf
      exact decodeF_stringLength hd ▸ Nat.zero_le _
    | hwReset => cases hf

theorem State.nextAgent_indicesOk {s u : State} {a : Agent} (h : s.nextAgent = some (a, u)) (hs : s.IndicesOk) :
    u.IndicesOk := by
  obtain ⟨rest, -, ⟨p, -, rfl⟩ | ⟨-, rfl⟩⟩ := State.nextAgent_some h
  · exact hs.of_queues rfl rfl
  · exact hs.of_queues rfl rfl

/-- Settles O36: an operation moves the index of its own port's first command only, and to one below its length. -/
theorem stringIndexStaysInRange : Obligations.StringIndexStaysInRange := by
  unfold Obligations.StringIndexStaysInRange
  intro s t hs h
  obtain ⟨-, -, ⟨-, rfl⟩ | ⟨a, u, hu, ha⟩⟩ := step_next h
  · exact hs
  · have hsu := State.nextAgent_indicesOk hu hs
    rcases agentStep_next ha with ⟨-, -, rfl⟩ | ⟨-, rfl⟩ | ⟨w, i, hf, hd, hexec⟩
    · exact hsu.of_queues rfl rfl
    · exact hsu
    · exact (exec_served hexec).indicesOk hsu (fetch_stringLength hu hf hd)

end Sys2Proof.Machine

/-! Decoding and encoding are inverse to one another (spec/30_encoding.md R91 to R95, R100). -/

namespace Sys2Proof

/-! ### A word and its fields -/

/-- The five fields cover a format D word. -/
theorem word_eq_iff_fields {w v : Word} : w = v ↔
    opcodeField w = opcodeField v ∧ rsvField w = rsvField v ∧ pvField w = pvField v ∧ instField w = instField v ∧
    operandField w = operandField v := by
  simp only [← BitVec.toNat_inj, opcodeField, rsvField, pvField_eq, instField, operandField, BitVec.extractLsb'_toNat,
    Nat.shiftRight_eq_div_pow, decide_eq_decide]
  omega

/-- A word is an assembled one exactly when `rsv` is zero and its other fields are those assembled. -/
theorem packD_eq_iff {op : BitVec 4} {pv : Bool} {inst : Byte} {x : Len} {w : Word} : packD op pv inst x = w ↔
    opcodeField w = op ∧ rsvField w = 0 ∧ pvField w = pv ∧ instField w = inst ∧ operandField w = x := by
  rw [eq_comm, word_eq_iff_fields, opcodeField_packD, rsvField_packD, pvField_packD, instField_packD,
    operandField_packD]

/-- The operand is its two bytes. -/
theorem operandField_eq_append (w : Word) : operandField w = operandHigh w ++ byteField w :=
  (BitVec.extractLsb'_append_extractLsb'_eq_extractLsb' (start₁ := 0) (len₁ := 8) (len₂ := 8) rfl).symm

/-- The operand of SEND_BYTE is its byte under a zero high byte (R93). -/
theorem operandField_eq_byte_iff {w : Word} {byte : Byte} :
    operandField w = 0#8 ++ byte ↔ operandHigh w = 0 ∧ byteField w = byte := by
  constructor
  · intro h
    rw [operandHigh_eq, byteField_eq, h]
    exact ⟨BitVec.extractLsb'_append_eq_left, BitVec.extractLsb'_append_eq_right⟩
  · rintro ⟨hhigh, rfl⟩
    rw [operandField_eq_append, hhigh]
    rfl

theorem packF_eq_iff {op : BitVec 2} {byte : Byte} {w : FWord} :
    packF op byte = w ↔ fopField w = op ∧ fbyteField w = byte := by
  constructor
  · rintro rfl
    exact ⟨fopField_packF op byte, fbyteField_packF op byte⟩
  · rintro ⟨rfl, rfl⟩
    exact packF_fields w

/-! ### The checks of the decoder -/

theorem needZero_eq_ok_iff {zero : Bool} {i j : Instr} : needZero zero i = .ok j ↔ zero = true ∧ i = j := by
  cases zero <;> simp [needZero]

theorem needNoPointer_eq_ok_iff {w : Word} {zero : Bool} {i j : Instr} :
    needNoPointer w zero i = .ok j ↔ pvField w = false ∧ zero = true ∧ i = j := by
  cases h : pvField w <;> simp [needNoPointer, h, needZero_eq_ok_iff]

theorem needNoByte_eq_ok_iff {w : FWord} {i j : Instr} :
    needNoByte w i = .ok j ↔ fbyteField w = 0 ∧ i = j := by
  cases h : fbyteField w == 0 <;> simp_all [needNoByte]

theorem needZero_eq_error_iff {zero : Bool} {i : Instr} : (∃ why, needZero zero i = .error why) ↔ zero = false := by
  cases zero <;> simp [needZero]

theorem needNoPointer_eq_error_iff {w : Word} {zero : Bool} {i : Instr} :
    (∃ why, needNoPointer w zero i = .error why) ↔ pvField w = true ∨ zero = false := by
  cases h : pvField w <;> simp [needNoPointer, h, needZero_eq_error_iff]

theorem needNoByte_eq_error_iff {w : FWord} {i : Instr} :
    (∃ why, needNoByte w i = .error why) ↔ fbyteField w ≠ 0 := by
  cases h : fbyteField w == 0 <;> simp_all [needNoByte]

/-! ### From a word to its operation and back -/

theorem encode_of_decodeRow {w : Word} {i : Instr} (hrsv : rsvField w = 0) (h : decodeRow w = .ok i) :
    encode i = .d w := by
  have word {op : BitVec 4} {pv : Bool} {inst : Byte} {x : Len} (hop : (opcodeField w).toNat = op.toNat)
      (hpv : pvField w = pv) (hinst : instField w = inst) (hx : operandField w = x) :
      CmdWord.d (packD op pv inst x) = .d w :=
    congrArg CmdWord.d (packD_eq_iff.2 ⟨BitVec.eq_of_toNat_eq hop, hrsv, hpv, hinst, hx⟩)
  unfold decodeRow at h
  split at h
  case h_1 hop =>
    obtain ⟨hz, rfl⟩ := needZero_eq_ok_iff.1 h
    obtain ⟨hinst, hx⟩ := Bool.and_eq_true_iff.1 hz
    exact word hop rfl (eq_of_beq hinst) (eq_of_beq hx)
  case h_2 hop | h_3 hop =>
    obtain ⟨hpv, hx, rfl⟩ := needNoPointer_eq_ok_iff.1 h
    exact word hop hpv rfl (eq_of_beq hx)
  case h_4 hop =>
    obtain ⟨hpv, hhigh, rfl⟩ := needNoPointer_eq_ok_iff.1 h
    exact word hop hpv rfl (operandField_eq_byte_iff.2 ⟨eq_of_beq hhigh, rfl⟩)
  case h_5 hop | h_8 hop =>
    obtain ⟨hx, rfl⟩ := needZero_eq_ok_iff.1 h
    exact word hop rfl rfl (eq_of_beq hx)
  case h_6 hop | h_7 hop =>
    cases h
    exact word hop rfl rfl rfl
  case h_9 => cases h

theorem encode_of_decodeD {w : Word} {i : Instr} (h : decodeD w = .ok i) : encode i = .d w := by
  unfold decodeD at h
  split at h
  · cases h
  · split at h
    · cases h
    · rename_i hrsv
      exact encode_of_decodeRow (by simpa using hrsv) h

theorem encode_of_decodeF {w : FWord} {i : Instr} (h : decodeF w = .ok i) : encode i = .f w := by
  have word {op : BitVec 2} {byte : Byte} (hop : (fopField w).toNat = op.toNat) (hb : fbyteField w = byte) :
      CmdWord.f (packF op byte) = .f w :=
    congrArg CmdWord.f (packF_eq_iff.2 ⟨BitVec.eq_of_toNat_eq hop, hb⟩)
  unfold decodeF at h
  split at h
  case h_1 hop | h_3 hop =>
    obtain ⟨hb, rfl⟩ := needNoByte_eq_ok_iff.1 h
    exact word hop hb
  case h_2 hop =>
    cases h
    exact word hop rfl
  case h_4 hne0 hne1 hne2 =>
    obtain ⟨hb, rfl⟩ := needNoByte_eq_ok_iff.1 h
    have hop : (fopField w).toNat = 3 := by
      have hlt := (fopField w).isLt
      rw [imp_false] at hne0 hne1 hne2
      omega
    exact word (op := 3) hop hb

/-- Settles O2: a row's checks and its fields are all the bits of the word. -/
theorem encodeOfDecode : Obligations.EncodeOfDecode := by
  unfold Obligations.EncodeOfDecode
  intro w i h
  cases w with
  | d w => exact encode_of_decodeD h
  | f w => exact encode_of_decodeF h

/-- An assembled word with an opcode of R94 comes to its row. -/
theorem decode_packD {op : BitVec 4} (hop : op.toNat < 8) (pv : Bool) (inst : Byte) (x : Len) :
    decode (.d (packD op pv inst x)) = decodeRow (packD op pv inst x) := by
  simp [decode, decodeD, opcodeField_packD, rsvField_packD, hop]

/-- Settles O1: an assembled word passes the checks of its row and reads back its fields. -/
theorem decodeOfEncode : Obligations.DecodeOfEncode := by
  unfold Obligations.DecodeOfEncode
  intro i
  cases i with
  | cbCreate | cbDeq | cbPeekLast => rfl
  | cbEnq byte => simp [encode, decode, decodeF, fopField_packF, fbyteField_packF]
  | init pv | recvByte pv inst | peekLastByte pv inst =>
    rw [encode, decode_packD (by decide)]
    simp [decodeRow, opcodeField_packD, pvField_packD, instField_packD, operandField_packD, needZero]
  | sendUpdate inst | recvUpdate inst =>
    rw [encode, decode_packD (by decide)]
    simp [decodeRow, opcodeField_packD, pvField_packD, instField_packD, operandField_packD, needNoPointer, needZero]
  | sendByte inst byte =>
    obtain ⟨hhigh, hbyte⟩ := operandField_eq_byte_iff.1 (operandField_packD 3 false inst (0#8 ++ byte))
    rw [encode, decode_packD (by decide), decodeRow]
    simp only [opcodeField_packD, instField_packD, hhigh, hbyte]
    exact needNoPointer_eq_ok_iff.2 ⟨pvField_packD _ _ _ _, rfl, rfl⟩
  | sendString pv inst len | recvString pv inst len =>
    rw [encode, decode_packD (by decide)]
    simp [decodeRow, opcodeField_packD, pvField_packD, instField_packD, operandField_packD]

/-- A word decodes to an operation exactly when it is the operation's word. -/
theorem decode_eq_ok_iff {w : CmdWord} {i : Instr} : decode w = .ok i ↔ encode i = w :=
  ⟨encodeOfDecode w i, fun h => h ▸ decodeOfEncode i⟩

/-! ### Mask and match -/

theorem opcodeField_and (w m : Word) : opcodeField (w &&& m) = opcodeField w &&& opcodeField m :=
  BitVec.extractLsb'_and ..

theorem rsvField_and (w m : Word) : rsvField (w &&& m) = rsvField w &&& rsvField m := BitVec.extractLsb'_and ..

theorem pvField_and (w m : Word) : pvField (w &&& m) = (pvField w && pvField m) := BitVec.getLsbD_and ..

theorem instField_and (w m : Word) : instField (w &&& m) = instField w &&& instField m := BitVec.extractLsb'_and ..

theorem operandField_and (w m : Word) : operandField (w &&& m) = operandField w &&& operandField m :=
  BitVec.extractLsb'_and ..

/-- A mask that keeps `opcode` and `rsv` has a match of R94, the opcode and zeros, exactly where the opcode is the
match's, `rsv` is zero and what the mask keeps of the other fields is zero. -/
theorem and_eq_packD_iff {w m : Word} {op : BitVec 4} {mp : Bool} {mi : Byte} {mx : Len}
    (hop : opcodeField m = BitVec.allOnes 4) (hrsv : rsvField m = BitVec.allOnes 3) (hpv : pvField m = mp)
    (hinst : instField m = mi) (hx : operandField m = mx) :
    w &&& m = packD op false 0 0 ↔
      opcodeField w = op ∧ rsvField w = 0 ∧ (pvField w && mp) = false ∧ instField w &&& mi = 0 ∧
        operandField w &&& mx = 0 := by
  rw [eq_comm, packD_eq_iff, opcodeField_and, rsvField_and, pvField_and, instField_and, operandField_and, hop, hrsv,
    hpv, hinst, hx, BitVec.and_allOnes, BitVec.and_allOnes]

section Rows

variable {w : Word} {op : BitVec 4}

/-- INIT: only `PV` is free. -/
theorem exists_pv_packD_iff : (∃ pv, packD op pv 0 0 = w) ↔ w &&& 0xFEFFFFFF#32 = packD op false 0 0 := by
  rw [and_eq_packD_iff (mp := false) (mi := .allOnes 8) (mx := .allOnes 16) rfl rfl rfl rfl rfl]
  simp [packD_eq_iff, -BitVec.reduceAllOnes]

/-- The updates: only `inst` is free. -/
theorem exists_inst_packD_iff : (∃ inst, packD op false inst 0 = w) ↔ w &&& 0xFF00FFFF#32 = packD op false 0 0 := by
  rw [and_eq_packD_iff (mp := true) (mi := 0) (mx := .allOnes 16) rfl rfl rfl rfl rfl]
  simp [packD_eq_iff, -BitVec.reduceAllOnes]

/-- The high byte of the operand is what the mask of SEND_BYTE keeps of it. -/
theorem operandField_and_high_eq_zero_iff :
    operandField w &&& (BitVec.allOnes 8 ++ 0#8) = 0#8 ++ 0#8 ↔ operandHigh w = 0 := by
  rw [operandField_eq_append, BitVec.and_append, BitVec.and_allOnes, BitVec.and_zero]
  exact BitVec.append_left_inj _

/-- SEND_BYTE: `inst` and the byte are free. -/
theorem exists_inst_byte_packD_iff :
    (∃ (inst byte : Byte), packD op false inst (0#8 ++ byte) = w) ↔ w &&& 0xFF00FF00#32 = packD op false 0 0 := by
  rw [and_eq_packD_iff (mp := true) (mi := 0) (mx := BitVec.allOnes 8 ++ 0#8) rfl rfl rfl rfl rfl,
    show (0 : Len) = 0#8 ++ 0#8 from rfl, operandField_and_high_eq_zero_iff]
  simp [packD_eq_iff, operandField_eq_byte_iff]

/-- RECV_BYTE and PEEK_LAST_BYTE: `PV` and `inst` are free. -/
theorem exists_pv_inst_packD_iff :
    (∃ pv inst, packD op pv inst 0 = w) ↔ w &&& 0xFE00FFFF#32 = packD op false 0 0 := by
  rw [and_eq_packD_iff (mp := false) (mi := 0) (mx := .allOnes 16) rfl rfl rfl rfl rfl]
  simp [packD_eq_iff, -BitVec.reduceAllOnes]

/-- The string commands: `PV`, `inst` and the length are free. -/
theorem exists_pv_inst_len_packD_iff :
    (∃ pv inst len, packD op pv inst len = w) ↔ w &&& 0xFE000000#32 = packD op false 0 0 := by
  rw [and_eq_packD_iff (mp := false) (mi := 0) (mx := 0) rfl rfl rfl rfl rfl]
  simp [packD_eq_iff]

end Rows

/-- Settles O3: a word decodes to an operation exactly when it is assembled with that row's free fields. -/
theorem driverWordsSpelledByMaskAndMatch : Obligations.DriverWordsSpelledByMaskAndMatch := by
  unfold Obligations.DriverWordsSpelledByMaskAndMatch
  intro w
  simp only [decode_eq_ok_iff, encode, CmdWord.d.injEq]
  exact ⟨exists_pv_packD_iff, exists_inst_packD_iff, exists_inst_packD_iff, exists_inst_byte_packD_iff,
    exists_pv_inst_packD_iff, exists_pv_inst_len_packD_iff, exists_pv_inst_len_packD_iff, exists_pv_inst_packD_iff⟩

end Sys2Proof

/-! The illegal words: the decoder rejects exactly them, and a port refuses exactly them by that name
(spec/30_encoding.md R96). -/

namespace Sys2Proof.Machine

/-- Once `rsv` is zero, a row's checks are the conditions of R96 for its opcode. -/
theorem decodeRow_eq_error_iff {w : Word} (hrsv : rsvField w = 0) :
    (∃ why, decodeRow w = .error why) ↔ illegalD w := by
  unfold decodeRow illegalD
  split
  case h_1 hop => simp [hop, hrsv, needZero_eq_error_iff, imp_iff_not_or, or_comm]
  case h_2 hop | h_3 hop | h_4 hop => simp [hop, hrsv, needNoPointer_eq_error_iff]
  case h_5 hop | h_8 hop => simp [hop, hrsv, needZero_eq_error_iff]
  case h_6 hop | h_7 hop => simp [hop, hrsv]
  case h_9 =>
    refine iff_of_true ⟨_, rfl⟩ (.inl ?_)
    simp only [imp_false] at *
    omega

theorem decode_d_eq_error_iff (w : Word) : (∃ why, decode (.d w) = .error why) ↔ illegalD w := by
  rw [decode, decodeD]
  split
  case isTrue hop => exact iff_of_true ⟨_, rfl⟩ (.inl hop)
  case isFalse =>
    split
    case isTrue hrsv => exact iff_of_true ⟨_, rfl⟩ (.inr (.inl (bne_iff_ne.1 hrsv)))
    case isFalse hrsv => exact decodeRow_eq_error_iff (by simpa using hrsv)

theorem decode_f_eq_error_iff (w : FWord) : (∃ why, decode (.f w) = .error why) ↔ illegalF w := by
  rw [decode, decodeF, illegalF]
  split
  case h_1 hop | h_3 hop => simp [hop, needNoByte_eq_error_iff]
  case h_2 hop => simp [hop]
  case h_4 _ hne _ => simp [needNoByte_eq_error_iff, show (fopField w).toNat ≠ 1 from hne]

/-- Settles O4: the checks of the decoder are the conditions of R96, row by row. -/
theorem illegalWordsRejected : Obligations.IllegalWordsRejected := by
  unfold Obligations.IllegalWordsRejected
  exact ⟨decode_d_eq_error_iff, decode_f_eq_error_iff⟩

/-! ### Refusals -/

theorem State.whenReady_refused {s : State} {run : State → Host.Outcome State Fault Refusal} {r : Refusal}
    (h : s.whenReady run = .refused r) : r = .notInitialized ∨ run s = .refused r := by
  unfold State.whenReady at h
  split at h
  · exact .inr h
  · cases h
    exact .inl rfl

theorem stringEntry_refused {pv : Bool} {inst : Byte} {len : Len} {op : Byte} {extent : Nat} {s : State} {r : Refusal}
    (h : stringEntry pv inst len op extent s = .refused r) : r = .badExtent := by
  unfold stringEntry at h
  split at h
  · cases h
  · split at h
    · cases h
    · split at h <;> cases h
      rfl

theorem sendIteration_refused {inst : Byte} {len : Len} {k : Nat} {s : State} {r : Refusal}
    (h : sendIteration inst len k s = .refused r) : r = .badExtent := by
  unfold sendIteration at h
  split at h
  · split at h
    · cases h
      rfl
    · split at h <;> cases h
  · cases h

theorem recvIteration_not_refused {inst : Byte} {len : Len} {k : Nat} {s : State} {r : Refusal} :
    recvIteration inst len k s ≠ .refused r := by
  intro h
  unfold recvIteration at h
  split at h
  · split at h <;> cases h
  · cases h

section Commands

variable {s : State} {r : Refusal} {pv : Bool} {inst byte : Byte} {len : Len}

theorem execSendUpdate_refused (h : execSendUpdate inst s = .refused r) : r = .notInitialized := by
  refine (State.whenReady_refused h).resolve_right fun h => ?_
  split at h
  · cases h
  · split at h <;> cases h

theorem execRecvUpdate_refused (h : execRecvUpdate inst s = .refused r) : r = .notInitialized := by
  refine (State.whenReady_refused h).resolve_right fun h => ?_
  split at h <;> cases h

theorem execSendByte_refused (h : execSendByte inst byte s = .refused r) : r = .notInitialized := by
  refine (State.whenReady_refused h).resolve_right fun h => ?_
  split at h
  · cases h
  · split at h <;> cases h

theorem execRecvByte_refused (h : execRecvByte pv inst s = .refused r) : r = .notInitialized ∨ r = .badExtent := by
  refine (State.whenReady_refused h).imp_right fun h => ?_
  split at h
  · cases h
  · split at h
    · cases h
      rfl
    · split at h <;> cases h

theorem execPeekLastByte_refused (h : execPeekLastByte pv inst s = .refused r) :
    r = .notInitialized ∨ r = .badExtent := by
  refine (State.whenReady_refused h).imp_right fun h => ?_
  split at h
  · cases h
  · split at h
    · cases h
      rfl
    · split at h <;> cases h

theorem execSendString_refused (h : execSendString pv inst len s = .refused r) :
    r = .notInitialized ∨ r = .badExtent := by
  refine (State.whenReady_refused h).imp_right fun h => ?_
  split at h
  · exact stringEntry_refused h
  · exact sendIteration_refused h

theorem execRecvString_refused (h : execRecvString pv inst len s = .refused r) :
    r = .notInitialized ∨ r = .badExtent := by
  refine (State.whenReady_refused h).imp_right fun h => ?_
  split at h
  · exact stringEntry_refused h
  · exact absurd h recvIteration_not_refused

/-- INIT is refused in no state. -/
theorem execInit_not_refused : execInit pv s ≠ .refused r := by
  intro h
  unfold execInit at h
  split at h <;> cases h

theorem execCbEnq_not_refused : execCbEnq byte s ≠ .refused r := by
  intro h
  unfold execCbEnq at h
  split at h <;> cases h

theorem execCbDeq_not_refused : execCbDeq s ≠ .refused r := by
  intro h
  unfold execCbDeq at h
  split at h <;> cases h

theorem execCbPeekLast_not_refused : execCbPeekLast s ≠ .refused r := by
  intro h
  unfold execCbPeekLast at h
  split at h <;> cases h

end Commands

/-- All that an operation can be refused for: the block is Uninitialized (R251), or the caller's bytes are too few
(R76). -/
theorem exec_refused {i : Instr} {s : State} {r : Refusal} (h : exec i s = .refused r) :
    r = .notInitialized ∨ r = .badExtent := by
  cases i with
  | cbCreate => cases h
  | cbEnq byte => exact absurd h execCbEnq_not_refused
  | cbDeq => exact absurd h execCbDeq_not_refused
  | cbPeekLast => exact absurd h execCbPeekLast_not_refused
  | init pv => exact absurd h execInit_not_refused
  | sendUpdate inst => exact .inl (execSendUpdate_refused h)
  | recvUpdate inst => exact .inl (execRecvUpdate_refused h)
  | sendByte inst byte => exact .inl (execSendByte_refused h)
  | recvByte pv inst => exact execRecvByte_refused h
  | sendString pv inst len => exact execSendString_refused h
  | recvString pv inst len => exact execRecvString_refused h
  | peekLastByte pv inst => exact execPeekLastByte_refused h

/-- A word is refused as illegal exactly where the decoder rejects it. -/
theorem runWord_illegalCommand_iff {w : CmdWord} {s : State} {why : Illegal} :
    runWord w s = .refused (.illegalCommand why) ↔ decode w = .error why := by
  unfold runWord
  split <;> rename_i hd
  · simp [hd]
  · rw [hd]
    refine iff_of_false (fun h => ?_) nofun
    rcases exec_refused h with h | h <;> cases h

/-- Settles O7: the port runs the word it decodes, and no operation is refused as an illegal word is. -/
theorem illegalWordRefused : Obligations.IllegalWordRefused := by
  unfold Obligations.IllegalWordRefused
  refine ⟨fun s p rest c q hw hh hs hq => ?_, fun s rest w q hw hh hs hq => ?_⟩
  · rw [step_agent hw hh (State.nextAgent_port hs), agentStep_port ((s.queue_with_turn rest p p).trans hq)]
    simp only [runWord_illegalCommand_iff, decode_d_eq_error_iff]
  · rw [step_agent hw hh (State.nextAgent_fifo hs), agentStep_fifo (s := { s with sched := rest }) hq]
    simp only [runWord_illegalCommand_iff, decode_f_eq_error_iff]

/-- Settles O5: the decoder evaluates on each of the twelve words. -/
theorem writtenWordsDecode : Obligations.WrittenWordsDecode := by
  unfold Obligations.WrittenWordsDecode
  decide

end Sys2Proof.Machine

/-! The primitives on the stand-alone buffer's port, the arithmetic of their indices, and the FIFO law
(spec/40_circular_buffer.md R121 to R126). -/

namespace Sys2Proof.Machine

/-! ### Indices -/

/-- R125: an index advances by one, or wraps to 0 at the capacity. -/
theorem succ_mod_cap {n cap : Nat} (h : n < cap) : (n + 1) % cap = if n + 1 < cap then n + 1 else 0 := by
  split
  case isTrue hlt => exact Nat.mod_eq_of_lt hlt
  case isFalse hge => rw [show n + 1 = cap by omega, Nat.mod_self]

/-- R125: the index behind the tail is one less, or the last place for a tail of 0. -/
theorem Buffer.WF.behindTail_eq_ite {b : Buffer} (h : b.WF) :
    b.behindTail = if b.tail > 0 then b.tail - 1 else b.cap - 1 := by
  have hpos := h.cap_pos
  have htail := h.tail_lt
  unfold Buffer.behindTail
  split
  case isTrue ht =>
    rw [show b.tail + b.cap - 1 = b.tail - 1 + b.cap by omega, Nat.add_mod_right, Nat.mod_eq_of_lt (by omega)]
  case isFalse ht =>
    rw [show b.tail + b.cap - 1 = b.cap - 1 by omega, Nat.mod_eq_of_lt (by omega)]

theorem Buffer.WF.behindTail_lt {b : Buffer} (h : b.WF) : b.behindTail < b.cap := Nat.mod_lt _ h.cap_pos

/-- Inside the storage the default of a read is not used. -/
theorem Buffer.getElem?_eq_some_getD {b : Buffer} {i : Nat} (h : i < b.cap) : b.st[i]? = some (b.st.getD i 0) := by
  have hlt : i < b.st.length := h
  simp [hlt]

/-- Settles O16: the indices advance modulo the capacity, where no division is needed. -/
theorem indicesAdvanceByOneOrWrap : Obligations.IndicesAdvanceByOneOrWrap := by
  unfold Obligations.IndicesAdvanceByOneOrWrap
  intro b b' x hb
  refine ⟨fun h => ?_, fun h => ?_, hb.behindTail_eq_ite⟩
  · have hcap := Buffer.enq_cap h
    have hle := (Buffer.enq_wf hb h).count_le
    obtain ⟨-, rfl⟩ := Buffer.enq_some.1 h
    exact ⟨succ_mod_cap hb.tail_lt, rfl, hle, hcap, rfl⟩
  · have hcap := Buffer.deq_cap h
    obtain ⟨hne, -, rfl⟩ := Buffer.deq_some.1 h
    exact ⟨succ_mod_cap hb.head_lt, Nat.sub_one_add_one hne, hcap, rfl, rfl⟩

/-! ### The operations of the port -/

/-- The model's return on the stand-alone buffer's port is the statements' `fifoReturned`. -/
theorem State.fifoRet_eq_fifoReturned (s : State) (r : Result) : s.fifoRet r = s.fifoReturned [] r := by
  simp [State.fifoRet, State.emit, State.fifoReturned]

section Port

variable {s : State} {b : Buffer} {x : Byte}

theorem exec_cbEnq_of_none (h : s.fifo.buf.enq x = none) :
    exec (.cbEnq x) s = .next (s.fifoReturned [] (.ok false)) := by
  simp only [exec, execCbEnq, h, State.fifoRet_eq_fifoReturned]

theorem exec_cbEnq_of_some (h : s.fifo.buf.enq x = some b) :
    exec (.cbEnq x) s = .next { s.fifoReturned [] (.ok true) with
      fifo := { s.fifo with buf := b, queue := s.fifo.queue.tail } } := by
  simp only [exec, execCbEnq, h, State.fifoRet_eq_fifoReturned]
  rfl

theorem exec_cbDeq_of_none (h : s.fifo.buf.deq = none) :
    exec .cbDeq s = .next (s.fifoReturned [] (.ok false)) := by
  simp only [exec, execCbDeq, h, State.fifoRet_eq_fifoReturned]

theorem exec_cbDeq_of_some (h : s.fifo.buf.deq = some (x, b)) :
    exec .cbDeq s = .next { s.fifoReturned [.fifoOut 0 x] (.ok true) with
      fifo := { buf := b, queue := s.fifo.queue.tail, out := x } } := by
  simp only [exec, execCbDeq, h]
  rfl

theorem exec_cbPeekLast_of_none (h : s.fifo.buf.peekLast = none) :
    exec .cbPeekLast s = .next (s.fifoReturned [] (.ok false)) := by
  simp only [exec, execCbPeekLast, h, State.fifoRet_eq_fifoReturned]

theorem exec_cbPeekLast_of_some (h : s.fifo.buf.peekLast = some x) :
    exec .cbPeekLast s = .next { s.fifoReturned [.fifoOut 0 x] (.ok true) with
      fifo := { buf := s.fifo.buf, queue := s.fifo.queue.tail, out := x } } := by
  simp only [exec, execCbPeekLast, h]
  rfl

end Port

/-- R95: the word of CB_ENQ is `op` 1 beside the byte. -/
theorem packF_one_eq_or (x : Byte) : packF 1 x = 0x100#10 ||| x.setWidth 10 := by
  apply BitVec.eq_of_toNat_eq
  rw [packF_toNat, BitVec.toNat_or, BitVec.toNat_setWidth_of_le (by decide)]
  exact Nat.two_pow_add_eq_or_of_lt x.isLt 1

/-- Settles O12: Create sets the three counters and returns, in every state. -/
theorem createEmptiesTheBuffer : Obligations.CreateEmptiesTheBuffer := by
  unfold Obligations.CreateEmptiesTheBuffer
  refine ⟨decodeOfEncode .cbCreate, fun s => ⟨?_, rfl, fun hcap => ?_⟩⟩
  · simp only [exec, execCbCreate, State.fifoRet_eq_fifoReturned]
    rfl
  · exact beq_false_of_ne (Nat.ne_of_lt hcap)

/-- Settles O13: the operation answers as the primitive does, which fails on a full buffer only. -/
theorem enqueueWritesAtTheTail : Obligations.EnqueueWritesAtTheTail := by
  unfold Obligations.EnqueueWritesAtTheTail
  refine ⟨fun x => packF_one_eq_or x ▸ decodeOfEncode (.cbEnq x), fun s x hb => ⟨fun hfull => ?_, fun hroom => ?_⟩⟩
  · exact exec_cbEnq_of_none (Buffer.enq_none.2 hfull)
  · have henq := (Buffer.enq_some (x := x)).2 ⟨hroom, rfl⟩
    refine ⟨exec_cbEnq_of_some henq, List.getElem?_set_self hb.tail_lt, rfl, ?_⟩
    rw [Buffer.full_iff, Buffer.enq_cap henq]

/-- Settles O14: the operation answers as the primitive does, which fails on an empty buffer only. -/
theorem dequeueReadsFromTheHead : Obligations.DequeueReadsFromTheHead := by
  unfold Obligations.DequeueReadsFromTheHead
  refine ⟨decodeOfEncode .cbDeq, fun s hb => ⟨fun hempty => ?_, fun hne => ?_⟩⟩
  · exact exec_cbDeq_of_none (Buffer.deq_none.2 hempty)
  · have hdeq := Buffer.deq_some.2 ⟨hne, rfl, rfl⟩
    have hle := hb.count_le
    refine ⟨_, Buffer.getElem?_eq_some_getD hb.head_lt, exec_cbDeq_of_some hdeq, ?_, ?_⟩
    · rw [← Bool.not_eq_true, Buffer.full_iff, Buffer.deq_cap hdeq]
      show ¬ s.fifo.buf.count - 1 = s.fifo.buf.cap
      omega
    · rw [Buffer.empty_iff]
      show s.fifo.buf.count - 1 = 0 ↔ s.fifo.buf.count = 1
      omega

/-- Settles O15: the operation answers as the primitive does, from the place behind the tail. -/
theorem peekLastReadsBehindTheTail : Obligations.PeekLastReadsBehindTheTail := by
  unfold Obligations.PeekLastReadsBehindTheTail
  refine ⟨decodeOfEncode .cbPeekLast, fun s hb => ⟨fun hempty => ?_, fun hne => ?_⟩⟩
  · exact exec_cbPeekLast_of_none (Buffer.peekLast_none.2 hempty)
  · rw [← hb.behindTail_eq_ite]
    exact ⟨_, Buffer.getElem?_eq_some_getD hb.behindTail_lt, exec_cbPeekLast_of_some (Buffer.peekLast_some.2 ⟨hne, rfl⟩)⟩

/-! ### Sequences of primitives -/

section Sequences

variable {b b' : Buffer} {x : Byte} {ops : List BufOp}

theorem Buffer.runOps_enq_none (h : b.enq x = none) : b.runOps (.enq x :: ops) = b.runOps ops := by
  simp only [Buffer.runOps, h]

theorem Buffer.runOps_enq_some (h : b.enq x = some b') : b.runOps (.enq x :: ops) =
    ((b'.runOps ops).1, x :: (b'.runOps ops).2.1, (b'.runOps ops).2.2) := by
  simp only [Buffer.runOps, h]

theorem Buffer.runOps_deq_none (h : b.deq = none) : b.runOps (.deq :: ops) = b.runOps ops := by
  simp only [Buffer.runOps, h]

theorem Buffer.runOps_deq_some (h : b.deq = some (x, b')) : b.runOps (.deq :: ops) =
    ((b'.runOps ops).1, (b'.runOps ops).2.1, x :: (b'.runOps ops).2.2) := by
  simp only [Buffer.runOps, h]

/-- A sequence of primitives keeps the buffer invariant and the capacity, and no byte is lost, made or reordered: what
was stored and then enqueued is what is dequeued and then stored. -/
theorem Buffer.WF.runOps_conserves (hb : b.WF) (ops : List BufOp) :
    (b.runOps ops).1.WF ∧ (b.runOps ops).1.cap = b.cap ∧
      b.contents ++ (b.runOps ops).2.1 = (b.runOps ops).2.2 ++ (b.runOps ops).1.contents := by
  induction ops generalizing b with
  | nil => exact ⟨hb, rfl, List.append_nil _⟩
  | cons op ops ih =>
    cases op with
    | enq x =>
      cases h : b.enq x with
      | none =>
        rw [Buffer.runOps_enq_none h]
        exact ih hb
      | some b' =>
        obtain ⟨hwf, hcap, hbytes⟩ := ih (Buffer.enq_wf hb h)
        rw [Buffer.runOps_enq_some h]
        refine ⟨hwf, hcap.trans (Buffer.enq_cap h), ?_⟩
        rw [← hbytes, hb.enq_contents h, List.append_assoc, List.singleton_append]
    | deq =>
      cases h : b.deq with
      | none =>
        rw [Buffer.runOps_deq_none h]
        exact ih hb
      | some r =>
        obtain ⟨y, b'⟩ := r
        obtain ⟨hwf, hcap, hbytes⟩ := ih (Buffer.deq_wf hb h)
        rw [Buffer.runOps_deq_some h]
        refine ⟨hwf, hcap.trans (Buffer.deq_cap h), ?_⟩
        rw [hb.deq_contents h, List.cons_append, hbytes, List.cons_append]

/-- A sequence that goes on after another continues from its buffer. -/
theorem Buffer.runOps_append (b : Buffer) (ops rest : List BufOp) : (b.runOps (ops ++ rest)).2 =
    ((b.runOps ops).2.1 ++ ((b.runOps ops).1.runOps rest).2.1,
      (b.runOps ops).2.2 ++ ((b.runOps ops).1.runOps rest).2.2) := by
  induction ops generalizing b with
  | nil => rfl
  | cons op ops ih =>
    rw [List.cons_append]
    cases op with
    | enq x =>
      cases h : b.enq x with
      | none => rw [Buffer.runOps_enq_none h, Buffer.runOps_enq_none h, ih]
      | some b' => rw [Buffer.runOps_enq_some h, Buffer.runOps_enq_some h, ih, List.cons_append]
    | deq =>
      cases h : b.deq with
      | none => rw [Buffer.runOps_deq_none h, Buffer.runOps_deq_none h, ih]
      | some r => rw [Buffer.runOps_deq_some h, Buffer.runOps_deq_some h, ih, List.cons_append]

/-- As many Enqueues as there is room for all succeed. -/
theorem Buffer.runOps_map_enq {xs : List Byte} (hroom : b.count + xs.length ≤ b.cap) :
    (b.runOps (xs.map .enq)).2 = (xs, []) := by
  induction xs generalizing b with
  | nil => rfl
  | cons x xs ih =>
    rw [List.length_cons] at hroom
    have henq := (Buffer.enq_some (x := x)).2 ⟨(by omega : b.count ≠ b.cap), rfl⟩
    rw [List.map_cons, Buffer.runOps_enq_some henq, ih]
    rw [Buffer.enq_cap henq]
    show b.count + 1 + xs.length ≤ b.cap
    omega

/-- As many Dequeues as there are bytes stored take them all, oldest first. -/
theorem Buffer.WF.runOps_replicate_deq (hb : b.WF) : (b.runOps (.replicate b.count .deq)).2 = ([], b.contents) := by
  induction hn : b.count generalizing b with
  | zero => rw [Buffer.contents_eq_nil.2 hn]; rfl
  | succ n ih =>
    have hdeq := Buffer.deq_some.2 ⟨(by omega : b.count ≠ 0), rfl, rfl⟩
    rw [List.replicate_succ, Buffer.runOps_deq_some hdeq, ih (Buffer.deq_wf hb hdeq) (by simp [hn]),
      hb.deq_contents hdeq]

/-- An Enqueue succeeds exactly where there is room. -/
theorem Buffer.WF.enq_isSome (hb : b.WF) (x : Byte) : (b.enq x).isSome = decide (b.count < b.cap) := by
  have hle := hb.count_le
  rw [Bool.eq_iff_iff, Option.isSome_iff_ne_none, Ne, Buffer.enq_none, decide_eq_true_iff]
  omega

/-- A Dequeue succeeds exactly where a byte is stored. -/
theorem Buffer.deq_isSome (b : Buffer) : b.deq.isSome = decide (0 < b.count) := by
  rw [Bool.eq_iff_iff, Option.isSome_iff_ne_none, Ne, Buffer.deq_none, decide_eq_true_iff, Nat.pos_iff_ne_zero]

end Sequences

/-- Settles O18: from an empty buffer, the bytes enqueued are those dequeued and then those stored. -/
theorem fifoLaw : Obligations.FifoLaw := by
  unfold Obligations.FifoLaw
  intro b hcap
  have hcreate : b.create.WF := Buffer.create_wf hcap
  have hnil : b.create.contents = [] := Buffer.contents_eq_nil.2 b.create_count
  refine ⟨fun ops => ?_, fun xs hxs => ?_⟩
  · obtain ⟨hwf, hc, hbytes⟩ := hcreate.runOps_conserves ops
    rw [hnil, List.nil_append] at hbytes
    have hlen := congrArg List.length hbytes
    rw [List.length_append, Buffer.contents_length] at hlen
    refine ⟨⟨_, hbytes, Buffer.contents_length _⟩, fun x => ?_, ?_⟩
    · rw [hwf.enq_isSome, hc, Buffer.create_cap, hlen, Nat.add_sub_cancel_left]
    · rw [Buffer.deq_isSome, hlen, decide_eq_decide]
      omega
  · have henq : (b.create.runOps (xs.map .enq)).2 = (xs, []) := Buffer.runOps_map_enq (by simp [hxs])
    obtain ⟨hwf, -, hbytes⟩ := hcreate.runOps_conserves (xs.map .enq)
    rw [henq, hnil, List.nil_append, List.nil_append] at hbytes
    have hcount : (b.create.runOps (xs.map .enq)).1.count = b.cap := by
      rw [← Buffer.contents_length, ← hbytes, hxs]
    rw [Buffer.runOps_append, henq, ← hcount, hwf.runOps_replicate_deq, ← hbytes, List.append_nil, List.nil_append]

end Sys2Proof.Machine

/-! INIT as a command: what it does to the instances, the register accesses it makes, its frame, and its report of an
absent table (spec/41_init.md R140, R142, R145). -/

namespace Sys2Proof.Machine

/-- A failed validation the reporter returns from makes its report, returns, and does nothing else. -/
theorem State.paramError_eq_returned {s : State} {inst op : Byte} (r : Result) (hs : s.halted = none)
    (h : s.paramReport inst op ∉ s.config.halts) :
    s.paramError inst op r = s.returned [.report (s.paramReport inst op)] r s.cmd.dst := by
  have hreport : s.reportOf .param inst op = s.paramReport inst op := rfl
  rw [State.paramError_of_not_mem r h hs]
  apply State.eq_of_fields <;> simp [State.ret_queue, State.returned_queue, hreport, h]

theorem exec_init_present (s : State) :
    exec (.init true) s = .next ((s.config.table.foldl initRecord s).ret .none) := rfl

theorem exec_init_absent (s : State) : exec (.init false) s = .next (s.paramError 0 opInit .none) := rfl

/-! ### The register accesses -/

/-- The register accesses of INIT for one record, in the order of spec/41_init.md R142. -/
def initWrites (c : Config) (r : CfgRecord) : List Event :=
  [.regWrite r.instanceId .baudL (divisorLow (divisor c.fClk r.baudRate)),
   .regWrite r.instanceId .baudH (divisorHigh (divisor c.fClk r.baudRate)),
   .regWrite r.instanceId .fmt (fmtByte c.fmtLayout r.stopBits r.parity),
   .regWrite r.instanceId .en (enByte c.enLayout)]

theorem initRecord_trace (s : State) (r : CfgRecord) : (initRecord s r).trace = s.trace ++ initWrites s.config r := by
  simp [initRecord, initWrites]

/-- The records' accesses join the trace in table order, and nothing else does. -/
theorem foldl_initRecord_trace (l : List CfgRecord) (s : State) :
    (l.foldl initRecord s).trace = s.trace ++ l.flatMap (initWrites s.config) := by
  induction l generalizing s with
  | nil => simp
  | cons r l ih =>
    rw [List.foldl_cons, ih, initRecord_trace, initRecord_config, List.flatMap_cons, List.append_assoc]

/-! ### The frame -/

/-- The work of INIT changes the instances, the register space and the trace, and no other field of the state. -/
theorem foldl_initRecord_frame (l : List CfgRecord) (s : State) :
    ∃ us m tr, l.foldl initRecord s = { s with uarts := us, mem := m, trace := tr } :=
  List.foldlRecOn (motive := fun t => ∃ us m tr, t = { s with uarts := us, mem := m, trace := tr }) l initRecord
    ⟨_, _, _, rfl⟩ fun _ ⟨_, _, _, ht⟩ _ _ => ht ▸ ⟨_, _, _, rfl⟩

theorem foldl_initRecord_turn (l : List CfgRecord) (s : State) : (l.foldl initRecord s).turn = s.turn := by
  obtain ⟨us, m, tr, h⟩ := foldl_initRecord_frame l s
  rw [h]

theorem foldl_initRecord_queue (l : List CfgRecord) (s : State) (p : Port) :
    (l.foldl initRecord s).queue p = s.queue p := by
  obtain ⟨us, m, tr, h⟩ := foldl_initRecord_frame l s
  rw [h]
  exact State.queue_congr rfl rfl p

theorem foldl_initRecord_cmd (l : List CfgRecord) (s : State) : (l.foldl initRecord s).cmd = s.cmd := by
  rw [State.cmd, State.cmd, foldl_initRecord_turn, foldl_initRecord_queue]

theorem Port.other_ne (p : Port) : p.other ≠ p := by cases p <;> decide

/-- Settles O21: the work for the records is confined to the instances, the register space and the trace, and the return
takes the command off its port. -/
theorem initFrame : Obligations.InitFrame := by
  unfold Obligations.InitFrame
  intro s
  refine ⟨_, exec_init_present s, ?_⟩
  have hlen := foldl_initRecord_length s.config.table s
  have hqueue := foldl_initRecord_queue s.config.table s
  have hread := (foldl_initRecord_running (n := 0) s).reads
  obtain ⟨us, m, tr, hfold⟩ := foldl_initRecord_frame s.config.table s
  rw [hfold] at hlen hqueue hread ⊢
  simpa [State.ret_queue, hqueue, Port.other_ne] using ⟨hlen, hread⟩

/-! ### The instances -/

section Shape

variable {s : State} (h : s.Shape)
include h

/-- Every instance has a record, and INIT populates the instance with it. -/
theorem State.Shape.foldl_initRecord_populates {i : Nat} (hi : i < s.config.nInst) :
    ∃ r ∈ s.config.table, r.instanceId = i ∧
      (s.config.table.foldl initRecord s).uart i = initUart (s.uart i) r := by
  obtain ⟨r, hr, rfl⟩ := Config.exists_record h.config_wf hi
  exact ⟨r, hr, rfl, foldl_initRecord_uart h.config_wf hr (h.length.symm ▸ hi)⟩

/-- After INIT the block is Ready: there is an instance, and INIT has made it Ready. -/
theorem State.Shape.foldl_initRecord_isReady : (s.config.table.foldl initRecord s).isReady = true := by
  have hpos := Config.nInst_pos h.config_wf
  obtain ⟨r, -, -, hu⟩ := h.foldl_initRecord_populates hpos
  refine (State.isReady_iff _).2 ⟨0, ?_, by rw [hu]; rfl⟩
  rw [foldl_initRecord_length, h.length]
  exact hpos

end Shape

/-- Settles O20: every instance of the shape has its one record in the table, whose work is what the statement says of
the instance, of the accesses and of the control registers; an absent table is a failed validation. -/
theorem initPopulatesEveryInstance : Obligations.InitPopulatesEveryInstance := by
  unfold Obligations.InitPopulatesEveryInstance
  refine ⟨by decide, by decide, fun s h => ⟨_, exec_init_present s, ?_, fun i hi => ?_, ?_, fun r hr => ?_⟩,
    fun s hs hn => congrArg _ (State.paramError_eq_returned .none hs hn), by decide⟩
  · exact (State.isReady_congr (State.ret_uarts _ _)).trans h.foldl_initRecord_isReady
  · rw [State.uart_congr (State.ret_uarts _ _)]
    exact h.foldl_initRecord_populates hi
  · rw [State.ret_trace, foldl_initRecord_trace, foldl_initRecord_turn, foldl_initRecord_cmd]
    rfl
  · exact (State.programmed_congr (State.ret_config _ _) (State.ret_mem _ _)).2
      (foldl_initRecord_programmed h.config_wf hr)

end Sys2Proof.Machine

/-! The configuration table: what an admitted one holds, the divisor of each record, and the refusal of any other
(spec/41_init.md R141, R144). -/

namespace Sys2Proof

section Admitted

variable {c : Config} (h : c.wf = true)
include h

theorem Config.table_length : c.table.length = c.nInst := by
  obtain ⟨-, -, -, hlen, -⟩ := c.wf_iff.1 h
  exact beq_iff_eq.1 hlen

theorem Config.baud_pos {r : CfgRecord} (hr : r ∈ c.table) : 1 ≤ r.baudRate.toNat := by
  obtain ⟨-, -, -, -, -, -, hbaud, -⟩ := c.wf_iff.1 h
  exact of_decide_eq_true (List.all_eq_true.1 hbaud r hr)

theorem Config.divisorExact_bounds {r : CfgRecord} (hr : r ∈ c.table) :
    0 ≤ Machine.divisorExact c.fClk r.baudRate.toNat ∧ Machine.divisorExact c.fClk r.baudRate.toNat ≤ 0xFFFF := by
  obtain ⟨-, -, -, -, -, -, -, hdiv, -⟩ := c.wf_iff.1 h
  simpa [divisorInRange] using List.all_eq_true.1 hdiv r hr

end Admitted

end Sys2Proof

namespace Sys2Proof.Machine

/-! ### The divisor -/

/-- The divisor fits its 16 bits exactly when the quotient lies between 1 and 65536. -/
theorem divisorExact_bounds_iff {fClk baud : Nat} : (0 ≤ divisorExact fClk baud ∧ divisorExact fClk baud ≤ 0xFFFF) ↔
    1 ≤ fClk / (16 * baud) ∧ fClk / (16 * baud) ≤ 65536 := by
  unfold divisorExact
  omega

/-- In range, the 16 bits hold the quotient less 1. -/
theorem divisor_toNat {fClk : Nat} {baud : BitVec 32} (h1 : 1 ≤ fClk / (16 * baud.toNat))
    (h2 : fClk / (16 * baud.toNat) ≤ 65536) : (divisor fClk baud).toNat = fClk / (16 * baud.toNat) - 1 := by
  rw [divisor, divisorExact, BitVec.toNat_ofInt]
  omega

/-- The two bytes of a divisor make up the divisor. -/
theorem divisorHigh_divisorLow_toNat (d : BitVec 16) :
    (divisorHigh d).toNat * 256 + (divisorLow d).toNat = d.toNat := by
  have hd := d.isLt
  simp only [divisorHigh, divisorLow, BitVec.extractLsb'_toNat, Nat.shiftRight_eq_div_pow]
  omega

/-! ### The refusal -/

theorem step_malformed {s : State} (h : s.config.wf ≠ true) : step s = .refused .malformedConfig := if_neg h

/-- Settles O22: the check of the divisor bounds the quotient by 1 and 65536, and in these bounds nothing is lost in 16
bits. -/
theorem divisorBytesAreExact : Obligations.DivisorBytesAreExact := by
  unfold Obligations.DivisorBytesAreExact
  refine ⟨fun c r hw hr => ?_, fun s r hr hout => step_malformed fun hw => hout ?_⟩
  · obtain ⟨hpos, hle⟩ := divisorExact_bounds_iff.1 (Config.divisorExact_bounds hw hr)
    exact ⟨hpos, divisor_toNat hpos hle, (divisorHigh_divisorLow_toNat _).trans (divisor_toNat hpos hle)⟩
  · obtain ⟨hpos, hle⟩ := divisorExact_bounds_iff.1 (Config.divisorExact_bounds hw hr)
    exact ⟨(Nat.div_pos_iff.1 hpos).2, hle⟩

/-- Settles O23: each of the conditions contradicts one check of an admitted configuration. -/
theorem malformedTableRefused : Obligations.MalformedTableRefused := by
  unfold Obligations.MalformedTableRefused
  refine fun s hbad => step_malformed fun hw => ?_
  rcases hbad with hlen | hdup | ⟨r, hr, hid⟩ | ⟨r, hr, hbaud⟩ | ⟨r, hr, hdiv⟩
  · exact hlen (Config.table_length hw)
  · exact hdup (Config.ids_nodup hw)
  · exact hid.not_gt (Config.record_lt hw hr)
  · exact hbaud.not_ge (Config.baud_pos hw hr)
  · exact hdiv (Config.divisorExact_bounds hw hr)

end Sys2Proof.Machine

/-! What a command does to the outside and nothing else: events that join the trace in one piece, before the return
(spec/00_scope.md R17, spec/30_encoding.md R99). -/

namespace Sys2Proof.Machine

/-- Append events to the trace. -/
def State.log (s : State) (es : List Event) : State := { s with trace := s.trace ++ es }

section Log

variable (s : State) (es : List Event)

@[simp] theorem State.log_config : (s.log es).config = s.config := rfl
@[simp] theorem State.log_halted : (s.log es).halted = s.halted := rfl
@[simp] theorem State.log_uart (i : Nat) : (s.log es).uart i = s.uart i := rfl
@[simp] theorem State.log_answer : (s.log es).answer = s.answer := rfl
@[simp] theorem State.log_reportOf (k : ErrorKind) (inst op : Byte) :
    (s.log es).reportOf k inst op = s.reportOf k inst op := rfl

@[simp] theorem State.log_nil : s.log [] = s := by simp [State.log]

@[simp] theorem State.log_log (es' : List Event) : (s.log es).log es' = s.log (es ++ es') := by simp [State.log]

/-- Taking an answer changes the answers and the count of the free ones, and no other field. -/
theorem State.takeAnswer_eq : s.takeAnswer =
    { s with answers := s.answers.tail, draws := if s.answers = [] then s.draws + 1 else s.draws } := by
  unfold State.takeAnswer
  split <;> simp_all

@[simp] theorem State.log_takeAnswer : (s.log es).takeAnswer = s.takeAnswer.log es := by
  rw [State.takeAnswer_eq, State.takeAnswer_eq]
  rfl

/-- A read takes an answer and joins the trace. -/
theorem State.regRead_eq_log (i : Nat) (r : Reg) : s.regRead i r = s.takeAnswer.log [.regRead i r s.answer] := rfl

/-- A write reaches the register space and joins the trace. -/
theorem State.log_regWrite (i : Nat) (r : Reg) (v : Byte) : (s.log es).regWrite i r v =
    { s with mem := s.mem.write (regAddr s.config i r) v }.log (es ++ [Event.regWrite i r v]) := by
  simp only [State.log, State.regWrite, State.emit, List.append_assoc]

/-- An instance and the trace are changed independently. -/
theorem State.log_pushRx (i : Nat) (b : Buffer) (d : Byte) : (s.log es).pushRx i b d = (s.pushRx i b d).log es := rfl

/-- A report the reporter returns from joins the trace, and nothing else changes (spec/60_exceptions.md R214). -/
theorem State.report_eq_log {s : State} {k : ErrorKind} {inst op : Byte} (h : s.reportOf k inst op ∉ s.config.halts) :
    s.report k inst op = s.log [.report (s.reportOf k inst op)] := by
  simp [State.report, State.log, State.emit, h]

/-- A return after events the command has made. -/
theorem State.log_ret (r : Result) : (s.log es).ret r = s.returned es r s.cmd.dst :=
  State.ret_eq_returned_of r (State.queue_congr rfl rfl) rfl rfl

end Log

end Sys2Proof.Machine

/-! The update commands case by case: the next state of SEND_UPDATE and RECV_UPDATE on a Ready block
(spec/42_update.md R155 to R158). -/

namespace Sys2Proof

/-- R91: an assembled word is its fields, each shifted to its place. -/
theorem packD_eq_or (op : BitVec 4) (pv : Bool) (inst : Byte) (x : Len) : packD op pv inst x =
    op.setWidth 32 <<< 28 ||| (BitVec.ofBool pv).setWidth 32 <<< 24 ||| inst.setWidth 32 <<< 16 ||| x.setWidth 32 := by
  apply BitVec.eq_of_getLsbD_eq
  intro i hi
  simp only [packD, BitVec.getLsbD_append, BitVec.getLsbD_or, BitVec.getLsbD_shiftLeft, BitVec.getLsbD_setWidth]
  grind

/-- R94: the word of an operation with no free field but `inst`. -/
theorem packD_inst_eq_or (op : BitVec 4) (inst : Byte) :
    packD op false inst 0 = op.setWidth 32 <<< 28 ||| inst.setWidth 32 <<< 16 := by
  simp [packD_eq_or]

end Sys2Proof

namespace Sys2Proof.Machine

theorem State.badInst_iff (s : State) (inst : Byte) : s.badInst inst = true ↔ s.config.nInst ≤ inst.toNat :=
  decide_eq_true_iff

theorem State.badInst_eq_false_iff (s : State) (inst : Byte) :
    s.badInst inst = false ↔ inst.toNat < s.config.nInst := by
  rw [← Bool.not_eq_true, State.badInst_iff, not_le]

/-- A buffer of the invariant that is not empty has a byte at its head, which Dequeue removes. -/
theorem Buffer.WF.exists_deq {b : Buffer} (h : b.WF) (hne : b.count ≠ 0) : ∃ x, b.st[b.head]? = some x ∧
    b.deq = some (x, { b with head := (b.head + 1) % b.cap, count := b.count - 1 }) :=
  ⟨_, Buffer.getElem?_eq_some_getD h.head_lt, Buffer.deq_some.2 ⟨hne, rfl, rfl⟩⟩

/-! ### The answers of the peripherals and the instances -/

@[simp] theorem State.takeAnswer_uart (s : State) (i : Nat) : s.takeAnswer.uart i = s.uart i :=
  State.uart_congr s.takeAnswer_uarts i

@[simp] theorem State.takeAnswer_reportOf (s : State) (k : ErrorKind) (inst op : Byte) :
    s.takeAnswer.reportOf k inst op = s.reportOf k inst op := by simp [State.reportOf]

@[simp] theorem State.setTx_answer (s : State) (i : Nat) (b : Buffer) : (s.setTx i b).answer = s.answer := rfl

theorem State.setTx_takeAnswer (s : State) (i : Nat) (b : Buffer) :
    (s.setTx i b).takeAnswer = s.takeAnswer.setTx i b := by
  rw [State.takeAnswer_eq, State.takeAnswer_eq]
  rfl

/-! ### SEND_UPDATE -/

section Send

variable {s : State} {inst x : Byte} {b : Buffer}

theorem exec_sendUpdate_of_badInst (hr : s.isReady = true) (hi : s.badInst inst = true) :
    exec (.sendUpdate inst) s = .next (s.paramError inst opSendUpdate .none) := by
  simp only [exec, execSendUpdate, State.whenReady_ready _ hr, hi, if_true]

theorem exec_sendUpdate_of_empty (hr : s.isReady = true) (hi : s.badInst inst = false)
    (hd : (s.uart inst.toNat).tx.deq = none) : exec (.sendUpdate inst) s = .next (s.ret .none) := by
  simp only [exec, execSendUpdate, State.whenReady_ready _ hr, hi, hd, Bool.false_eq_true, if_false]

theorem exec_sendUpdate_of_byte (hr : s.isReady = true) (hi : s.badInst inst = false)
    (hd : (s.uart inst.toNat).tx.deq = some (x, b)) :
    exec (.sendUpdate inst) s = .next (sendDequeued (s.setTx inst.toNat b) inst x) := by
  simp only [exec, execSendUpdate, State.whenReady_ready _ hr, hi, hd, Bool.false_eq_true, if_false]

/-- With `TXE` set the byte is written to `DATA`. -/
theorem sendDequeued_of_txe (h : txe s.config s.answer = true) :
    sendDequeued s inst x =
      { s.takeAnswer with mem := s.mem.write (regAddr s.config inst.toNat .data) x }.returned
        [.regRead inst.toNat .status s.answer, .regWrite inst.toNat .data x] .none s.cmd.dst := by
  unfold sendDequeued
  rw [if_pos h, State.regRead_eq_log, State.log_regWrite, State.log_ret, State.takeAnswer_eq]
  rfl

/-- With `TXE` clear the byte is lost, with a report. -/
theorem sendDequeued_of_not_txe (h : txe s.config s.answer = false) (hs : s.halted = none)
    (hh : s.reportOf .tbNempty inst opSendUpdate ∉ s.config.halts) :
    sendDequeued s inst x =
      s.takeAnswer.returned [.regRead inst.toNat .status s.answer, .report (s.reportOf .tbNempty inst opSendUpdate)]
        .none s.cmd.dst := by
  unfold sendDequeued
  rw [if_neg (by simp [h]), State.regRead_eq_log, State.report_eq_log (by simpa using hh), State.log_log,
    State.resume_running _ (by simpa using hs), State.log_ret]
  simp

end Send

/-! ### RECV_UPDATE -/

section Recv

variable {s : State} {v inst : Byte} {b : Buffer} {es : List Event}

theorem exec_recvUpdate_of_badInst (hr : s.isReady = true) (hi : s.badInst inst = true) :
    exec (.recvUpdate inst) s = .next (s.paramError inst opRecvUpdate .none) := by
  simp only [exec, execRecvUpdate, State.whenReady_ready _ hr, hi, if_true]

theorem exec_recvUpdate_of_inst (hr : s.isReady = true) (hi : s.badInst inst = false) :
    exec (.recvUpdate inst) s = .next (receiveSnapshot s inst) := by
  simp only [exec, execRecvUpdate, State.whenReady_ready _ hr, hi, Bool.false_eq_true, if_false]

/-- With `RXC` clear the command returns after its one read. -/
theorem receiveSnapshot_of_not_rxc (h : rxc s.config s.answer = false) :
    receiveSnapshot s inst = (s.regRead inst.toNat .status).ret .none := by
  simp only [receiveSnapshot, h, Bool.false_eq_true, if_false]

/-- With `RXC` set the flags are inspected and the data byte is read. -/
theorem receiveSnapshot_of_rxc (h : rxc s.config s.answer = true) :
    receiveSnapshot s inst = (lineReports s.answer inst (s.regRead inst.toNat .status)).resume
      (receiveData (lineError s.config s.answer) inst) := by
  simp only [receiveSnapshot, h, if_true]

/-- One inspection the reporter returns from makes a report if its flag is set. -/
theorem log_reportIf (flag : Bool) {k : ErrorKind} (h : s.reportOf k inst opRecvUpdate ∉ s.config.halts) :
    reportIf flag k inst (s.log es) =
      s.log (es ++ if flag then [.report (s.reportOf k inst opRecvUpdate)] else []) := by
  cases flag
  · exact congrArg s.log (List.append_nil es).symm
  · exact (State.report_eq_log (s := s.log es) h).trans (s.log_log es _)

/-- Where the reporter returns, the three inspections make one report for each flag that is set, and change nothing
else. -/
theorem log_lineReports (hs : s.halted = none) (h : ∀ k, s.reportOf k inst opRecvUpdate ∉ s.config.halts) :
    lineReports v inst (s.log es) =
      s.log (es ++ (if fe s.config v then [.report (s.reportOf .framing inst opRecvUpdate)] else []) ++
        (if ovr s.config v then [.report (s.reportOf .overrun inst opRecvUpdate)] else []) ++
        (if pe s.config v then [.report (s.reportOf .parity inst opRecvUpdate)] else [])) := by
  unfold lineReports
  rw [log_reportIf _ (h _), State.resume_running (s := s.log _) _ hs, log_reportIf _ (h _),
    State.resume_running (s := s.log _) _ hs, log_reportIf _ (h _)]
  rfl

/-- Where no error flag is set the inspections do nothing. -/
theorem lineReports_of_no_error (hs : s.halted = none) (h : lineError s.config v = false) :
    lineReports v inst s = s := by
  simp only [lineError, Bool.or_eq_false_iff] at h
  obtain ⟨⟨hfe, hovr⟩, hpe⟩ := h
  simp only [lineReports, reportIf, hfe, hovr, hpe, State.resume_running _ hs, Bool.false_eq_true, if_false]

/-- With an error flag set the byte read from `DATA` is discarded. -/
theorem log_receiveData_of_error : receiveData true inst (s.log es) =
    s.takeAnswer.returned (es ++ [.regRead inst.toNat .data s.answer]) .none s.cmd.dst := by
  simp [receiveData, State.regRead_eq_log, State.log_ret]

/-- A full receive buffer drops the byte. -/
theorem log_receiveData_of_full (h : (s.uart inst.toNat).rx.enq s.answer = none) : receiveData false inst (s.log es) =
    s.takeAnswer.returned (es ++ [.regRead inst.toNat .data s.answer]) .none s.cmd.dst := by
  simp [receiveData, State.regRead_eq_log, State.log_ret, h]

theorem log_receiveData_of_room (h : (s.uart inst.toNat).rx.enq s.answer = some b) : receiveData false inst (s.log es) =
    (s.takeAnswer.pushRx inst.toNat b s.answer).returned (es ++ [.regRead inst.toNat .data s.answer]) .none
      s.cmd.dst := by
  simp [receiveData, State.regRead_eq_log, State.log_pushRx, State.log_ret, h]

end Recv

/-- Settles O24: the validation of either update fails, and the reporter returns. -/
theorem updatesValidateTheInstance : Obligations.UpdatesValidateTheInstance := by
  unfold Obligations.UpdatesValidateTheInstance
  intro s inst hr hs hi
  have hbad := (s.badInst_iff inst).2 hi
  refine ⟨fun hh => ?_, fun hh => ?_⟩
  · rw [exec_sendUpdate_of_badInst hr hbad]
    exact congrArg _ (State.paramError_eq_returned .none hs hh)
  · rw [exec_recvUpdate_of_badInst hr hbad]
    exact congrArg _ (State.paramError_eq_returned .none hs hh)

/-- Settles O25: the cases are those of the validation, of the Dequeue and of the flag `TXE`. -/
theorem sendUpdateWritesOrLosesTheByte : Obligations.SendUpdateWritesOrLosesTheByte := by
  unfold Obligations.SendUpdateWritesOrLosesTheByte
  refine fun s inst hr hs => ⟨congrArg _ (packD_inst_eq_or 1 inst),
    fun hi hh => (updatesValidateTheInstance s inst hr hs hi).1 hh, fun hi hc => ?_, fun hinv hi hc => ?_⟩
  · rw [exec_sendUpdate_of_empty hr ((s.badInst_eq_false_iff inst).2 hi) (Buffer.deq_none.2 hc), State.ret_eq_returned]
  · obtain ⟨x, hx, hd⟩ := (hinv.uart_wf hr _ hi).tx.exists_deq hc
    simp only [exec_sendUpdate_of_byte hr ((s.badInst_eq_false_iff inst).2 hi) hd, ← State.setTx_takeAnswer]
    exact ⟨x, hx, fun htxe => congrArg _ (sendDequeued_of_txe htxe),
      fun htxe hh => congrArg _ (sendDequeued_of_not_txe htxe hs hh)⟩

/-- Settles O26: the cases are those of the validation, of the flag `RXC`, of the error flags and of the Enqueue. -/
theorem recvUpdateDecodesTheSnapshot : Obligations.RecvUpdateDecodesTheSnapshot := by
  unfold Obligations.RecvUpdateDecodesTheSnapshot
  intro s inst hr hs
  have hs' : s.takeAnswer.halted = none := s.takeAnswer_halted.trans hs
  refine ⟨congrArg _ (packD_inst_eq_or 2 inst), fun hi hh => (updatesValidateTheInstance s inst hr hs hi).2 hh,
    fun hi hrxc => ?_, fun hi hrxc herr hh => ?_, fun hinv hi hrxc hfe hovr hpe => ?_⟩
  · rw [exec_recvUpdate_of_inst hr ((s.badInst_eq_false_iff inst).2 hi), receiveSnapshot_of_not_rxc hrxc,
      State.regRead_eq_log, State.log_ret, State.takeAnswer_cmd]
  · have herr' : lineError s.config s.answer = true := herr
    have hh' : ∀ k, s.takeAnswer.reportOf k inst opRecvUpdate ∉ s.takeAnswer.config.halts := by
      simp only [State.takeAnswer_reportOf, State.takeAnswer_config]
      exact hh
    rw [exec_recvUpdate_of_inst hr ((s.badInst_eq_false_iff inst).2 hi), receiveSnapshot_of_rxc hrxc, herr',
      State.regRead_eq_log, log_lineReports hs' hh', State.resume_running (s := State.log _ _) _ hs',
      log_receiveData_of_error]
    simp only [State.takeAnswer_reportOf, State.takeAnswer_config, State.takeAnswer_cmd]
    rfl
  · have herr : lineError s.config s.answer = false := by
      simp only [lineError, fe, ovr, pe, hfe, hovr, hpe, Bool.or_false]
    rw [exec_recvUpdate_of_inst hr ((s.badInst_eq_false_iff inst).2 hi), receiveSnapshot_of_rxc hrxc, herr,
      State.regRead_eq_log, lineReports_of_no_error (s := State.log _ _) hs' (by simpa using herr),
      State.resume_running (s := State.log _ _) _ hs']
    refine ⟨fun hfull => ?_, fun hroom => ?_⟩
    · rw [log_receiveData_of_full (by simpa using Buffer.enq_none.2 hfull), State.takeAnswer_cmd]
      rfl
    · rw [log_receiveData_of_room (by simpa using Buffer.enq_some.2 ⟨hroom, rfl⟩), State.takeAnswer_cmd]
      simp [State.pushRx]

end Sys2Proof.Machine

/-! The two directions of an instance: a sending command leaves every receive buffer and shadow byte as they are, a
receiving one every send buffer (spec/10_state.md R25, spec/20_memory.md R71, spec/42_update.md R155, R156). -/

namespace Sys2Proof.Machine

/-- From `s` to `t` no receive buffer and no shadow byte has changed. -/
def State.KeepsRx (s t : State) : Prop :=
  ∀ j, (t.uart j).rx = (s.uart j).rx ∧ (t.uart j).lastRx = (s.uart j).lastRx

/-- From `s` to `t` no send buffer has changed. -/
def State.KeepsTx (s t : State) : Prop := ∀ j, (t.uart j).tx = (s.uart j).tx

section Rules

variable {s t u : State} {i : Nat} {b : Buffer} {d : Byte}

theorem State.KeepsRx.of_uarts (h : t.uarts = s.uarts) : s.KeepsRx t := fun j => by
  simp only [State.uart_congr h j, and_self]

theorem State.KeepsTx.of_uarts (h : t.uarts = s.uarts) : s.KeepsTx t := fun j => by rw [State.uart_congr h j]

theorem State.KeepsTx.trans (h : s.KeepsTx t) (k : t.KeepsTx u) : s.KeepsTx u := fun j => (k j).trans (h j)

/-- Replacing a send buffer keeps the other direction. -/
theorem State.KeepsRx.of_setTx (h : t.uarts = (s.setTx i b).uarts) : s.KeepsRx t := fun j => by
  rw [State.uart_congr h j, State.setTx, State.setUart_uart]
  split
  case isTrue hij => rw [hij.1]; exact ⟨rfl, rfl⟩
  case isFalse => exact ⟨rfl, rfl⟩

/-- Replacing an instance by one with the same send buffer keeps the other direction. -/
theorem State.KeepsTx.of_setUart {v : Uart} (hv : v.tx = (s.uart i).tx) (h : t.uarts = (s.setUart i v).uarts) :
    s.KeepsTx t := fun j => by
  rw [State.uart_congr h j, State.setUart_uart]
  split
  case isTrue hij => rw [← hij.1]; exact hv
  case isFalse => rfl

theorem State.KeepsTx.of_setRx (h : t.uarts = (s.setRx i b).uarts) : s.KeepsTx t :=
  .of_setUart (v := { s.uart i with rx := b }) rfl h

theorem State.KeepsTx.of_pushRx (h : t.uarts = (s.pushRx i b d).uarts) : s.KeepsTx t :=
  .of_setUart (v := { s.uart i with rx := b, lastRx := d }) rfl h

end Rules

section Commands

variable {s t : State} {pv : Bool} {inst byte : Byte} {len : Len}

theorem execSendUpdate_keepsRx (h : execSendUpdate inst s = .next t) : s.KeepsRx t := by
  obtain ⟨-, h⟩ := State.whenReady_next h
  split at h
  · cases h; exact .of_uarts (State.paramError_uarts _ _ _ _)
  · split at h
    · cases h; exact .of_uarts (s.ret_uarts _)
    · cases h; exact .of_setTx (sendDequeued_uarts _ _ _)

theorem execSendByte_keepsRx (h : execSendByte inst byte s = .next t) : s.KeepsRx t := by
  obtain ⟨-, h⟩ := State.whenReady_next h
  split at h
  · cases h; exact .of_uarts (State.paramError_uarts _ _ _ _)
  · split at h
    · cases h; exact .of_uarts (s.ret_uarts _)
    · cases h; exact .of_setTx (State.ret_uarts _ _)

theorem execSendString_keepsRx (h : execSendString pv inst len s = .next t) : s.KeepsRx t := by
  obtain ⟨-, h⟩ := State.whenReady_next h
  split at h
  · exact .of_uarts (stringEntry_same h).uarts
  · rcases sendIteration_next h with rfl | ⟨_, _, _, _, -, rfl⟩
    · exact .of_uarts (s.ret_uarts _)
    · exact .of_setTx (stringMoved_uarts _ _ _)

theorem receiveData_keepsTx (err : Bool) (inst : Byte) (s : State) : s.KeepsTx (receiveData err inst s) := by
  refine (State.KeepsTx.of_uarts (s.regRead_uarts inst.toNat .data)).trans ?_
  unfold receiveData
  simp only
  split
  · exact .of_uarts (State.ret_uarts _ _)
  · split
    · exact .of_uarts (State.ret_uarts _ _)
    · exact .of_pushRx (State.ret_uarts _ _)

theorem receiveSnapshot_keepsTx (s : State) (inst : Byte) : s.KeepsTx (receiveSnapshot s inst) := by
  cases h : rxc s.config s.answer with
  | false => rw [receiveSnapshot_of_not_rxc h]; exact .of_uarts (by simp)
  | true =>
    have hlines : s.KeepsTx (lineReports s.answer inst (s.regRead inst.toNat .status)) := .of_uarts (by simp)
    rw [receiveSnapshot_of_rxc h]
    rcases State.resume_cases (lineReports s.answer inst (s.regRead inst.toNat .status))
      (receiveData (lineError s.config s.answer) inst) with ⟨-, hk⟩ | ⟨-, hk⟩
    · rw [hk]; exact hlines.trans (receiveData_keepsTx _ _ _)
    · rw [hk]; exact hlines

theorem execRecvUpdate_keepsTx (h : execRecvUpdate inst s = .next t) : s.KeepsTx t := by
  obtain ⟨-, h⟩ := State.whenReady_next h
  split at h
  · cases h; exact .of_uarts (State.paramError_uarts _ _ _ _)
  · cases h; exact receiveSnapshot_keepsTx s inst

theorem execRecvByte_keepsTx (h : execRecvByte pv inst s = .next t) : s.KeepsTx t := by
  obtain ⟨-, h⟩ := State.whenReady_next h
  split at h
  · cases h; exact .of_uarts (State.paramError_uarts _ _ _ _)
  · split at h
    · cases h
    · split at h
      · cases h; exact .of_uarts (s.ret_uarts _)
      · cases h; exact .of_setRx ((State.ret_uarts _ _).trans (State.outWrite_uarts _ _ _))

theorem execRecvString_keepsTx (h : execRecvString pv inst len s = .next t) : s.KeepsTx t := by
  obtain ⟨-, h⟩ := State.whenReady_next h
  split at h
  · exact .of_uarts (stringEntry_same h).uarts
  · rcases recvIteration_next h with rfl | ⟨_, _, _, -, rfl⟩
    · exact .of_uarts (s.ret_uarts _)
    · exact .of_setRx ((stringMoved_uarts _ _ _).trans (State.outWrite_uarts _ _ _))

/-- PEEK_LAST_BYTE writes nothing but the caller's destination. -/
theorem execPeekLastByte_uarts (h : execPeekLastByte pv inst s = .next t) : t.uarts = s.uarts := by
  obtain ⟨-, h⟩ := State.whenReady_next h
  split at h
  · cases h; exact State.paramError_uarts _ _ _ _
  · split at h
    · cases h
    · split at h
      · cases h; exact s.ret_uarts _
      · cases h; simp

end Commands

/-- Settles O44: a command replaces at most one buffer, and it is one of its own direction. -/
theorem directionsAreSeparate : Obligations.DirectionsAreSeparate := by
  unfold Obligations.DirectionsAreSeparate
  refine fun s t pv inst byte len => ⟨fun h => ?_, fun h => ?_, execPeekLastByte_uarts⟩
  · rcases h with h | h | h
    · exact execSendUpdate_keepsRx h
    · exact execSendByte_keepsRx h
    · exact execSendString_keepsRx h
  · rcases h with h | h | h
    · exact execRecvUpdate_keepsTx h
    · exact execRecvByte_keepsTx h
    · exact execRecvString_keepsTx h

end Sys2Proof.Machine

/-! What a command shows the peripherals and the Error Reporter: its register accesses and its error reports, in order,
each read taking one answer (spec/20_memory.md R65, R66, spec/42_update.md R161, spec/60_exceptions.md R210). -/

namespace Sys2Proof.Machine

/-- A register access or an error report. -/
def Event.external : Event → Bool
  | .regRead _ _ _ | .regWrite _ _ _ | .report _ => true
  | .outWrite _ _ _ | .ret _ _ _ | .fifoOut _ _ | .fifoRet _ => false

/-- A register read, which takes one answer of a peripheral. -/
def Event.isRead : Event → Bool
  | .regRead _ _ _ => true
  | .regWrite _ _ _ | .report _ | .outWrite _ _ _ | .ret _ _ _ | .fifoOut _ _ | .fifoRet _ => false

/-- From `s` to `t` the register accesses and the reports are `es`, and each read has taken one answer: a listed one, or
a free one where the list has run out. -/
structure State.Shows (s : State) (es : List Event) (t : State) : Prop where
  trace   : ∃ new, t.trace = s.trace ++ new ∧ new.filter Event.external = es
  answers : t.answers = s.answers.drop (es.countP Event.isRead)
  draws   : t.draws = s.draws + (es.countP Event.isRead - s.answers.length)

/-! ### The accesses and the reports of a trace -/

theorem newEvents_eq {s t : State} {new : List Event} (h : t.trace = s.trace ++ new) : newEvents s t = new := by
  rw [newEvents, h, List.drop_left]

@[simp] theorem accessesOf_append (l l' : List Event) : accessesOf (l ++ l') = accessesOf l ++ accessesOf l' :=
  List.filter_append ..

/-- Reports are no register accesses. -/
@[simp] theorem accessesOf_map_report {α : Type} (f : α → Report) (l : List α) :
    accessesOf (l.map fun a => .report (f a)) = [] := by simp [accessesOf]

/-- Every register access is external. -/
theorem accessesOf_filter_external (l : List Event) : accessesOf (l.filter Event.external) = accessesOf l := by
  rw [accessesOf, accessesOf, List.filter_filter]
  exact List.filter_congr fun e _ => by cases e <;> rfl

/-- Every report is external. -/
theorem reportsOf_filter_external (l : List Event) : reportsOf (l.filter Event.external) = reportsOf l := by
  rw [reportsOf, reportsOf, List.filterMap_filter]
  exact List.filterMap_congr fun e _ => by cases e <;> rfl

section Rules

variable {s t u : State} {es es' : List Event}

theorem State.Shows.accesses (h : s.Shows es t) : accessesOf (newEvents s t) = accessesOf es := by
  obtain ⟨new, ht, rfl⟩ := h.trace
  rw [newEvents_eq ht, accessesOf_filter_external]

theorem State.Shows.reports (h : s.Shows es t) : reportsOf (newEvents s t) = reportsOf es := by
  obtain ⟨new, ht, rfl⟩ := h.trace
  rw [newEvents_eq ht, reportsOf_filter_external]

/-- With no read shown no answer is taken. -/
theorem State.Shows.no_answer (h : s.Shows es t) (hes : es.countP Event.isRead = 0) :
    t.answers = s.answers ∧ t.draws = s.draws := by
  refine ⟨?_, ?_⟩
  · rw [h.answers, hes, List.drop_zero]
  · rw [h.draws, hes, Nat.zero_sub, Nat.add_zero]

theorem State.Shows.trans (h : s.Shows es t) (k : t.Shows es' u) : s.Shows (es ++ es') u := by
  obtain ⟨new, ht, rfl⟩ := h.trace
  obtain ⟨new', hu, rfl⟩ := k.trace
  refine ⟨⟨new ++ new', by rw [hu, ht, List.append_assoc], List.filter_append ..⟩, ?_, ?_⟩
  · rw [k.answers, h.answers, List.drop_drop, List.countP_append]
  · rw [k.draws, h.draws, h.answers, List.length_drop, List.countP_append]
    omega

/-- Events without a read, where no answer is taken. -/
theorem State.Shows.of_events {new : List Event} (ht : t.trace = s.trace ++ new) (ha : t.answers = s.answers)
    (hd : t.draws = s.draws) (hn : (new.filter Event.external).countP Event.isRead = 0) :
    s.Shows (new.filter Event.external) t := by
  refine ⟨⟨new, ht, rfl⟩, ?_, ?_⟩
  · rw [hn, ha, List.drop_zero]
  · rw [hn, hd, Nat.zero_sub, Nat.add_zero]

theorem State.Shows.of_unchanged (ht : t.trace = s.trace) (ha : t.answers = s.answers) (hd : t.draws = s.draws) :
    s.Shows [] t := .of_events (new := []) (ht.trans (List.append_nil _).symm) ha hd rfl

theorem State.Shows.refl (s : State) : s.Shows [] s := .of_unchanged rfl rfl rfl

/-! ### One rule per shared operation -/

theorem State.shows_regRead (s : State) (i : Nat) (r : Reg) : s.Shows [.regRead i r s.answer] (s.regRead i r) := by
  refine ⟨⟨[.regRead i r s.answer], s.regRead_trace i r, rfl⟩, ?_, ?_⟩
  · rw [s.regRead_answers]
    exact List.drop_one.symm
  · rw [s.regRead_draws, s.takeAnswer_eq]
    cases s.answers <;> simp [Event.isRead]

theorem State.shows_regWrite (s : State) (i : Nat) (r : Reg) (v : Byte) :
    s.Shows [.regWrite i r v] (s.regWrite i r v) := .of_events (new := [.regWrite i r v]) rfl rfl rfl rfl

theorem State.shows_report (s : State) (k : ErrorKind) (inst op : Byte) :
    s.Shows [.report (s.reportOf k inst op)] (s.report k inst op) :=
  .of_events (new := [.report (s.reportOf k inst op)]) rfl rfl rfl rfl

theorem State.shows_ret (s : State) (r : Result) : s.Shows [] (s.ret r) :=
  .of_events (s.ret_trace r) (s.ret_answers r) (s.ret_draws r) rfl

theorem State.shows_outWrite (s : State) (k : Nat) (b : Byte) : s.Shows [] (s.outWrite k b) :=
  .of_events (s.outWrite_trace k b) (s.outWrite_answers k b) (s.outWrite_draws k b) rfl

theorem State.shows_advance (s : State) (k : Nat) : s.Shows [] (s.advance k) :=
  .of_unchanged (s.advance_trace k) (s.advance_answers k) (s.advance_draws k)

theorem State.shows_setUart (s : State) (i : Nat) (v : Uart) : s.Shows [] (s.setUart i v) := .of_unchanged rfl rfl rfl

theorem State.shows_setFifoBuf (s : State) (b : Buffer) : s.Shows [] (s.setFifoBuf b) := .of_unchanged rfl rfl rfl

theorem State.shows_fifoOutWrite (s : State) (b : Byte) : s.Shows [] (s.fifoOutWrite b) :=
  .of_events (new := [.fifoOut 0 b]) rfl rfl rfl rfl

theorem State.shows_fifoRet (s : State) (r : Result) : s.Shows [] (s.fifoRet r) :=
  .of_events (new := [.fifoRet r]) rfl rfl rfl rfl

/-- What follows a report shows nothing more, whether or not the reporter returns. -/
theorem State.shows_resume {f : State → State} (hf : ∀ s, State.Shows s [] (f s)) (s : State) :
    s.Shows [] (s.resume f) := by
  rcases State.resume_cases s f with ⟨-, h⟩ | ⟨-, h⟩
  · rw [h]; exact hf s
  · rw [h]; exact .refl s

theorem State.shows_paramError (s : State) (inst op : Byte) (r : Result) :
    s.Shows [.report (s.paramReport inst op)] (s.paramError inst op r) :=
  (s.shows_report .param inst op).trans (State.shows_resume (fun s => s.shows_ret r) _)

end Rules

/-! ### The commands that access no register -/

/-- From `s` to `t` nothing is shown but the `E_PARAM` of the command `i`, if that. -/
def State.ShowsParam (i : Instr) (s t : State) : Prop :=
  s.Shows [] t ∨ ∃ o, reportOrigin i = some o ∧ s.Shows [.report (s.paramReport o.instanceId o.operationId)] t

section Commands

variable {s t : State} {pv : Bool} {inst byte : Byte} {len : Len}

theorem stringMoved_shows (len : Len) (k : Nat) (s : State) : s.Shows [] (stringMoved len k s) := by
  rcases stringMoved_cases len k s with ⟨-, h⟩ | ⟨-, h⟩
  · exact h ▸ s.shows_advance _
  · exact h ▸ s.shows_ret _

theorem stringEntry_shows {op : Byte} {extent : Nat} (h : stringEntry pv inst len op extent s = .next t) :
    s.Shows [] t ∨ s.Shows [.report (s.paramReport inst op)] t := by
  rcases stringEntry_next h with ⟨-, rfl⟩ | ⟨-, -, rfl⟩ | ⟨-, -, -, rfl⟩
  · exact .inl (s.shows_ret _)
  · exact .inr (s.shows_paramError _ _ _)
  · exact .inl (s.shows_advance _)

theorem execSendByte_shows (h : execSendByte inst byte s = .next t) :
    State.ShowsParam (.sendByte inst byte) s t := by
  obtain ⟨-, h⟩ := State.whenReady_next h
  split at h
  · cases h; exact .inr ⟨_, rfl, s.shows_paramError _ _ _⟩
  · split at h
    · cases h; exact .inl (s.shows_ret _)
    · cases h; exact .inl ((s.shows_setUart _ _).trans (State.shows_ret _ _))

theorem execRecvByte_shows (h : execRecvByte pv inst s = .next t) : State.ShowsParam (.recvByte pv inst) s t := by
  obtain ⟨-, h⟩ := State.whenReady_next h
  split at h
  · cases h; exact .inr ⟨_, rfl, s.shows_paramError _ _ _⟩
  · split at h
    · cases h
    · split at h
      · cases h; exact .inl (s.shows_ret _)
      · cases h
        exact .inl (((s.shows_setUart _ _).trans (State.shows_outWrite _ _ _)).trans (State.shows_ret _ _))

theorem execPeekLastByte_shows (h : execPeekLastByte pv inst s = .next t) :
    State.ShowsParam (.peekLastByte pv inst) s t := by
  obtain ⟨-, h⟩ := State.whenReady_next h
  split at h
  · cases h; exact .inr ⟨_, rfl, s.shows_paramError _ _ _⟩
  · split at h
    · cases h
    · split at h
      · cases h; exact .inl (s.shows_ret _)
      · cases h; exact .inl ((s.shows_outWrite _ _).trans (State.shows_ret _ _))

theorem execSendString_shows (h : execSendString pv inst len s = .next t) :
    State.ShowsParam (.sendString pv inst len) s t := by
  obtain ⟨-, h⟩ := State.whenReady_next h
  split at h
  · exact (stringEntry_shows h).imp_right fun h => ⟨_, rfl, h⟩
  · rcases sendIteration_next h with rfl | ⟨_, _, -, -, -, rfl⟩
    · exact .inl (s.shows_ret _)
    · exact .inl ((s.shows_setUart _ _).trans (stringMoved_shows _ _ _))

theorem execRecvString_shows (h : execRecvString pv inst len s = .next t) :
    State.ShowsParam (.recvString pv inst len) s t := by
  obtain ⟨-, h⟩ := State.whenReady_next h
  split at h
  · exact (stringEntry_shows h).imp_right fun h => ⟨_, rfl, h⟩
  · rcases recvIteration_next h with rfl | ⟨_, _, -, -, rfl⟩
    · exact .inl (s.shows_ret _)
    · exact .inl (((s.shows_setUart _ _).trans (State.shows_outWrite _ _ _)).trans (stringMoved_shows _ _ _))

theorem execCbEnq_shows (h : execCbEnq byte s = .next t) : s.Shows [] t := by
  unfold execCbEnq at h
  split at h
  · cases h; exact s.shows_fifoRet _
  · cases h; exact (s.shows_setFifoBuf _).trans (State.shows_fifoRet _ _)

theorem execCbDeq_shows (h : execCbDeq s = .next t) : s.Shows [] t := by
  unfold execCbDeq at h
  split at h
  · cases h; exact s.shows_fifoRet _
  · cases h
    exact ((s.shows_setFifoBuf _).trans (State.shows_fifoOutWrite _ _)).trans (State.shows_fifoRet _ _)

theorem execCbPeekLast_shows (h : execCbPeekLast s = .next t) : s.Shows [] t := by
  unfold execCbPeekLast at h
  split at h
  · cases h; exact s.shows_fifoRet _
  · cases h; exact (s.shows_fifoOutWrite _).trans (State.shows_fifoRet _ _)

end Commands

/-- An operation other than an update and INIT shows nothing but its `E_PARAM`. -/
theorem exec_showsParam {i : Instr} {s t : State} (hu : ∀ inst, i ≠ .sendUpdate inst ∧ i ≠ .recvUpdate inst)
    (hi : ∀ pv, i ≠ .init pv) (h : exec i s = .next t) : State.ShowsParam i s t := by
  cases i with
  | cbCreate => cases h; exact .inl ((s.shows_setFifoBuf _).trans (State.shows_fifoRet _ _))
  | cbEnq _ => exact .inl (execCbEnq_shows h)
  | cbDeq => exact .inl (execCbDeq_shows h)
  | cbPeekLast => exact .inl (execCbPeekLast_shows h)
  | init pv => exact absurd rfl (hi pv)
  | sendUpdate inst => exact absurd rfl (hu inst).1
  | recvUpdate inst => exact absurd rfl (hu inst).2
  | sendByte _ _ => exact execSendByte_shows h
  | recvByte _ _ => exact execRecvByte_shows h
  | sendString _ _ _ => exact execSendString_shows h
  | recvString _ _ _ => exact execRecvString_shows h
  | peekLastByte _ _ => exact execPeekLastByte_shows h

/-- A command that shows no more than its `E_PARAM` accesses no register and takes no answer. -/
theorem State.ShowsParam.no_access {i : Instr} {s t : State} (h : State.ShowsParam i s t) :
    t.answers = s.answers ∧ t.draws = s.draws ∧ accessesOf (newEvents s t) = [] := by
  rcases h with h | ⟨o, -, h⟩
  · exact ⟨(h.no_answer rfl).1, (h.no_answer rfl).2, h.accesses⟩
  · exact ⟨(h.no_answer rfl).1, (h.no_answer rfl).2, h.accesses⟩

/-! ### INIT -/

theorem initRecord_shows (s : State) (r : CfgRecord) : s.Shows (initWrites s.config r) (initRecord s r) :=
  ((((s.shows_setUart _ _).trans (State.shows_regWrite _ _ _ _)).trans (State.shows_regWrite _ _ _ _)).trans
    (State.shows_regWrite _ _ _ _)).trans (State.shows_regWrite _ _ _ _)

theorem foldl_initRecord_shows (l : List CfgRecord) (s : State) :
    s.Shows (l.flatMap (initWrites s.config)) (l.foldl initRecord s) := by
  induction l generalizing s with
  | nil => exact .refl s
  | cons r l ih => exact (initRecord_shows s r).trans (initRecord_config s r ▸ ih (initRecord s r))

/-- INIT shows the writes for each record, or the `E_PARAM` of an absent table. -/
theorem execInit_shows {pv : Bool} {s t : State} (h : execInit pv s = .next t) :
    s.Shows (if pv then s.config.table.flatMap (initWrites s.config) else [.report (s.paramReport 0 opInit)]) t := by
  cases pv <;> cases h
  · exact s.shows_paramError _ _ _
  · simpa using (foldl_initRecord_shows s.config.table s).trans (State.shows_ret _ _)

/-- The register accesses of INIT are four for each record. -/
theorem accessesOf_flatMap_initWrites_length (c : Config) (l : List CfgRecord) :
    (accessesOf (l.flatMap (initWrites c))).length = 4 * l.length := by
  induction l with
  | nil => rfl
  | cons r l ih =>
    rw [List.flatMap_cons, accessesOf_append, List.length_append, ih, List.length_cons]
    show 4 + 4 * l.length = 4 * (l.length + 1)
    omega

/-- INIT reads no register. -/
theorem flatMap_initWrites_no_read (c : Config) (l : List CfgRecord) :
    (l.flatMap (initWrites c)).countP Event.isRead = 0 := by
  induction l with
  | nil => rfl
  | cons r l ih =>
    rw [List.flatMap_cons, List.countP_append, ih]
    rfl

/-! ### The updates -/

section Updates

variable {s t : State} {inst : Byte}

/-- After a Dequeue SEND_UPDATE reads `STATUS` and writes `DATA` or reports. -/
theorem sendDequeued_shows (s : State) (inst x : Byte) : s.Shows [.regRead inst.toNat .status s.answer,
    if txe s.config s.answer then .regWrite inst.toNat .data x else .report (s.reportOf .tbNempty inst opSendUpdate)]
    (sendDequeued s inst x) := by
  have hread := s.shows_regRead inst.toNat .status
  unfold sendDequeued
  cases txe s.config s.answer
  · have hrep := (s.regRead inst.toNat .status).shows_report .tbNempty inst opSendUpdate
    rw [show (s.regRead inst.toNat .status).reportOf .tbNempty inst opSendUpdate =
      s.reportOf .tbNempty inst opSendUpdate by simp [State.reportOf]] at hrep
    exact (hread.trans hrep).trans (State.shows_resume (fun s => s.shows_ret _) _)
  · exact (hread.trans (State.shows_regWrite _ _ _ _)).trans (State.shows_ret _ _)

/-- All that SEND_UPDATE shows. -/
theorem execSendUpdate_shows (h : execSendUpdate inst s = .next t) :
    s.Shows [.report (s.paramReport inst opSendUpdate)] t ∨ s.Shows [] t ∨
    ∃ x, s.Shows [.regRead inst.toNat .status s.answer, if txe s.config s.answer then .regWrite inst.toNat .data x
      else .report (s.reportOf .tbNempty inst opSendUpdate)] t := by
  obtain ⟨-, h⟩ := State.whenReady_next h
  split at h
  · cases h; exact .inl (s.shows_paramError _ _ _)
  · split at h
    · cases h; exact .inr (.inl (s.shows_ret _))
    · cases h; exact .inr (.inr ⟨_, (s.shows_setUart _ _).trans (sendDequeued_shows _ _ _)⟩)

/-- From `s` to `t` nothing is shown but reports of RECV_UPDATE of some of the kinds `ks`, in their order. -/
def State.ShowsLines (inst : Byte) (ks : List ErrorKind) (s t : State) : Prop :=
  t.config = s.config ∧
    ∃ made : List ErrorKind, made.Sublist ks ∧ s.Shows (made.map fun k => .report (s.reportOf k inst opRecvUpdate)) t

theorem State.ShowsLines.trans {ks ks' : List ErrorKind} {u : State} (h : State.ShowsLines inst ks s t)
    (k : State.ShowsLines inst ks' t u) : State.ShowsLines inst (ks ++ ks') s u := by
  obtain ⟨hc, made, hm, hs⟩ := h
  obtain ⟨kc, made', km, ks⟩ := k
  refine ⟨kc.trans hc, made ++ made', hm.append km, ?_⟩
  simp only [State.reportOf, hc] at hs ks ⊢
  exact List.map_append ▸ hs.trans ks

theorem State.showsLines_resume {ks : List ErrorKind} {f : State → State}
    (hf : ∀ s, State.ShowsLines inst ks s (f s)) (s : State) : State.ShowsLines inst ks s (s.resume f) := by
  rcases State.resume_cases s f with ⟨-, h⟩ | ⟨-, h⟩
  · rw [h]; exact hf s
  · rw [h]; exact ⟨rfl, [], List.nil_sublist _, .refl s⟩

/-- One inspection shows one report, or none. -/
theorem reportIf_showsLines (flag : Bool) (k : ErrorKind) (inst : Byte) (s : State) :
    State.ShowsLines inst [k] s (reportIf flag k inst s) := by
  cases flag
  · exact ⟨rfl, [], List.nil_sublist _, .refl s⟩
  · exact ⟨rfl, [k], List.Sublist.refl _, s.shows_report k inst opRecvUpdate⟩

theorem lineReports_showsLines (v inst : Byte) (s : State) :
    State.ShowsLines inst [.framing, .overrun, .parity] s (lineReports v inst s) :=
  ((reportIf_showsLines _ _ inst s).trans (State.showsLines_resume (reportIf_showsLines _ _ inst) _)).trans
    (State.showsLines_resume (reportIf_showsLines _ _ inst) _)

/-- The read of `DATA` is all that is shown after the inspections. -/
theorem receiveData_shows (err : Bool) (inst : Byte) (s : State) :
    s.Shows [.regRead inst.toNat .data s.answer] (receiveData err inst s) := by
  refine (s.shows_regRead inst.toNat .data).trans ?_
  unfold receiveData
  simp only
  split
  · exact State.shows_ret _ _
  · split
    · exact State.shows_ret _ _
    · exact (State.shows_setUart _ _ _).trans (State.shows_ret _ _)

/-- All that RECV_UPDATE shows: the reports come between its two reads. -/
theorem execRecvUpdate_shows (h : execRecvUpdate inst s = .next t) :
    s.Shows [.report (s.paramReport inst opRecvUpdate)] t ∨
    ∃ made : List ErrorKind, made.Sublist [.framing, .overrun, .parity] ∧
      ∃ data : List Event, (data = [] ∨ ∃ d, data = [.regRead inst.toNat .data d]) ∧
        s.Shows ([.regRead inst.toNat .status s.answer] ++
          made.map (fun k => .report (s.reportOf k inst opRecvUpdate)) ++ data) t := by
  obtain ⟨-, h⟩ := State.whenReady_next h
  split at h
  · cases h; exact .inl (s.shows_paramError _ _ _)
  · cases h
    refine .inr ?_
    have hread := s.shows_regRead inst.toNat .status
    cases hrxc : rxc s.config s.answer with
    | false =>
      rw [receiveSnapshot_of_not_rxc hrxc]
      exact ⟨[], List.nil_sublist _, [], .inl rfl, hread.trans (State.shows_ret _ _)⟩
    | true =>
      obtain ⟨-, made, hmade, hlines⟩ := lineReports_showsLines s.answer inst (s.regRead inst.toNat .status)
      simp only [State.reportOf, State.regRead_config] at hlines
      rw [receiveSnapshot_of_rxc hrxc]
      rcases State.resume_cases (lineReports s.answer inst (s.regRead inst.toNat .status))
        (receiveData (lineError s.config s.answer) inst) with ⟨-, hk⟩ | ⟨-, hk⟩
      · rw [hk]
        exact ⟨made, hmade, _, .inr ⟨_, rfl⟩, (hread.trans hlines).trans (receiveData_shows _ _ _)⟩
      · rw [hk]
        exact ⟨made, hmade, [], .inl rfl, (List.append_nil _).symm ▸ hread.trans hlines⟩

end Updates

/-- Settles O46: the accesses are those among the events each command shows. -/
theorem registerAccessesPerCommand : Obligations.RegisterAccessesPerCommand := by
  unfold Obligations.RegisterAccessesPerCommand
  refine fun i s t h => ⟨?_, ?_, ?_, fun hu => ?_⟩
  · rintro inst rfl
    rcases execSendUpdate_shows h with hs | hs | ⟨x, hs⟩
    · exact .inl hs.accesses
    · exact .inl hs.accesses
    · rw [hs.accesses]
      cases txe s.config s.answer
      · exact .inr (.inl ⟨_, rfl⟩)
      · exact .inr (.inr ⟨_, _, rfl⟩)
  · rintro inst rfl
    rcases execRecvUpdate_shows h with hs | ⟨made, -, data, hdata, hs⟩
    · exact .inl hs.accesses
    · rw [hs.accesses, accessesOf_append, accessesOf_append, accessesOf_map_report]
      rcases hdata with rfl | ⟨d, rfl⟩
      · exact .inr (.inl ⟨_, rfl⟩)
      · exact .inr (.inr ⟨_, _, rfl⟩)
  · rintro pv rfl
    rw [(execInit_shows h).accesses]
    cases pv
    · rfl
    · exact accessesOf_flatMap_initWrites_length s.config s.config.table
  · by_cases hi : ∃ pv, i = .init pv
    · obtain ⟨pv, rfl⟩ := hi
      have hread := (execInit_shows h).no_answer (by
        cases pv
        · rfl
        · exact flatMap_initWrites_no_read s.config s.config.table)
      exact ⟨hread.1, hread.2, fun hne => absurd rfl (hne pv)⟩
    · obtain ⟨ha, hd, hacc⟩ := (exec_showsParam hu (not_exists.1 hi) h).no_access
      exact ⟨ha, hd, fun _ => hacc⟩

end Sys2Proof.Machine

/-! The updates as functions of what they read: two runs of one command kept in step (spec/42_update.md R159). -/

namespace Sys2Proof.Machine

/-! ### The course of RECV_UPDATE -/

section Recv

variable (err : Bool) (v inst : Byte) (s : State)

@[simp] theorem receiveData_config : (receiveData err inst s).config = s.config := by
  unfold receiveData
  simp only
  split
  · simp
  · split <;> simp

@[simp] theorem receiveData_halted : (receiveData err inst s).halted = s.halted := by
  unfold receiveData
  simp only
  split
  · simp
  · split <;> simp

/-- The inspections take no answer. -/
@[simp] theorem lineReports_answer : (lineReports v inst s).answer = s.answer := by
  obtain ⟨-, made, -, hs⟩ := lineReports_showsLines v inst s
  obtain ⟨ha, hd⟩ := hs.no_answer (by simp [Event.isRead])
  rw [State.answer, State.answer, ha, hd]

variable {inst s}

/-- What the read of `DATA` leaves in the receive buffer. -/
theorem receiveData_rx (hi : inst.toNat < s.uarts.length) : ((receiveData err inst s).uart inst.toNat).rx =
    if err then (s.uart inst.toNat).rx
    else ((s.uart inst.toNat).rx.enq s.answer).getD (s.uart inst.toNat).rx := by
  unfold receiveData
  simp only [State.uart_congr (s.regRead_uarts inst.toNat .data)]
  split
  · exact congrArg Uart.rx (State.uart_congr (by simp) _)
  · cases henq : (s.uart inst.toNat).rx.enq s.answer with
    | none => exact congrArg Uart.rx (State.uart_congr (by simp) _)
    | some b =>
      simp only [Option.getD_some, State.uart_congr (State.ret_uarts _ _), State.pushRx]
      rw [State.setUart_uart_same _ (by simpa using hi)]

/-- What a dequeued byte leaves in the send buffer. -/
theorem sendDequeued_tx (x : Byte) (b : Buffer) (hi : inst.toNat < s.uarts.length) :
    ((sendDequeued (s.setTx inst.toNat b) inst x).uart inst.toNat).tx = b := by
  rw [State.uart_congr (sendDequeued_uarts _ _ _), State.setTx, State.setUart_uart_same _ hi]

end Recv

/-- The runs from `s₁` to `t₁` and from `s₂` to `t₂` have shown the same, and a report made next has the same record and
halts in both or in neither. -/
structure State.InStep (s₁ s₂ t₁ t₂ : State) : Prop where
  config : t₁.config = t₂.config
  halted : t₁.halted = t₂.halted
  shown  : ∃ es, s₁.Shows es t₁ ∧ s₂.Shows es t₂

section Rules

variable {s₁ s₂ t₁ t₂ u₁ u₂ : State} {es : List Event}

theorem State.InStep.refl (hc : s₁.config = s₂.config) (hh : s₁.halted = s₂.halted) : State.InStep s₁ s₂ s₁ s₂ :=
  ⟨hc, hh, [], .refl _, .refl _⟩

/-- Both runs go on in the same way. -/
theorem State.InStep.next (h : State.InStep s₁ s₂ t₁ t₂) (hc : u₁.config = u₂.config) (hh : u₁.halted = u₂.halted)
    (h₁ : t₁.Shows es u₁) (h₂ : t₂.Shows es u₂) : State.InStep s₁ s₂ u₁ u₂ := by
  obtain ⟨-, -, es', k₁, k₂⟩ := h
  exact ⟨hc, hh, es' ++ es, k₁.trans h₁, k₂.trans h₂⟩

theorem State.InStep.ret (h : State.InStep s₁ s₂ t₁ t₂) (r : Result) : State.InStep s₁ s₂ (t₁.ret r) (t₂.ret r) :=
  h.next (by simpa using h.config) (by simpa using h.halted) (t₁.shows_ret r) (t₂.shows_ret r)

theorem State.InStep.setUart (h : State.InStep s₁ s₂ t₁ t₂) (i : Nat) (v₁ v₂ : Uart) :
    State.InStep s₁ s₂ (t₁.setUart i v₁) (t₂.setUart i v₂) :=
  h.next h.config h.halted (t₁.shows_setUart i v₁) (t₂.shows_setUart i v₂)

theorem State.InStep.regWrite (h : State.InStep s₁ s₂ t₁ t₂) (i : Nat) (r : Reg) (v : Byte) :
    State.InStep s₁ s₂ (t₁.regWrite i r v) (t₂.regWrite i r v) :=
  h.next h.config h.halted (t₁.shows_regWrite i r v) (t₂.shows_regWrite i r v)

/-- A read that is answered the same in both runs. -/
theorem State.InStep.regRead (h : State.InStep s₁ s₂ t₁ t₂) (i : Nat) (r : Reg) (ha : t₁.answer = t₂.answer) :
    State.InStep s₁ s₂ (t₁.regRead i r) (t₂.regRead i r) :=
  h.next (by simpa using h.config) (by simpa using h.halted) (t₁.shows_regRead i r) (ha ▸ t₂.shows_regRead i r)

theorem State.InStep.report (h : State.InStep s₁ s₂ t₁ t₂) (k : ErrorKind) (inst op : Byte) :
    State.InStep s₁ s₂ (t₁.report k inst op) (t₂.report k inst op) := by
  have hr : t₁.reportOf k inst op = t₂.reportOf k inst op := by rw [State.reportOf, State.reportOf, h.config]
  exact h.next h.config (by rw [State.report_halted, State.report_halted, hr, h.config, h.halted])
    (t₁.shows_report k inst op) (hr ▸ t₂.shows_report k inst op)

/-- Both runs return from a report, or neither does. -/
theorem State.InStep.resume {f₁ f₂ : State → State} (h : State.InStep s₁ s₂ t₁ t₂)
    (hf : State.InStep s₁ s₂ (f₁ t₁) (f₂ t₂)) : State.InStep s₁ s₂ (t₁.resume f₁) (t₂.resume f₂) := by
  rcases State.resume_cases t₁ f₁ with ⟨h₁, hk⟩ | ⟨⟨r, h₁⟩, hk⟩
  · rw [hk, State.resume_running f₂ (h.halted ▸ h₁)]; exact hf
  · rw [hk, State.resume_halted f₂ (h.halted ▸ h₁)]; exact h

/-- What agrees in the two runs before a report and in the two continuations agrees in the runs. -/
theorem State.InStep.resume_congr {α : Type} {g : State → α} {f₁ f₂ : State → State} (h : State.InStep s₁ s₂ t₁ t₂)
    (hg : g t₁ = g t₂) (hf : g (f₁ t₁) = g (f₂ t₂)) : g (t₁.resume f₁) = g (t₂.resume f₂) := by
  rcases State.resume_cases t₁ f₁ with ⟨h₁, hk⟩ | ⟨⟨r, h₁⟩, hk⟩
  · rw [hk, State.resume_running f₂ (h.halted ▸ h₁)]; exact hf
  · rw [hk, State.resume_halted f₂ (h.halted ▸ h₁)]; exact hg

theorem State.InStep.paramError (h : State.InStep s₁ s₂ t₁ t₂) (inst op : Byte) (r : Result) :
    State.InStep s₁ s₂ (t₁.paramError inst op r) (t₂.paramError inst op r) :=
  (h.report .param inst op).resume ((h.report .param inst op).ret r)

/-- What the runs have shown is the same in the terms of the statements. -/
theorem State.InStep.accesses_reports (h : State.InStep s₁ s₂ t₁ t₂) :
    accessesOf (newEvents s₁ t₁) = accessesOf (newEvents s₂ t₂) ∧
    reportsOf (newEvents s₁ t₁) = reportsOf (newEvents s₂ t₂) := by
  obtain ⟨-, -, es, h₁, h₂⟩ := h
  exact ⟨h₁.accesses.trans h₂.accesses.symm, h₁.reports.trans h₂.reports.symm⟩

/-! ### The parts of the updates -/

theorem sendDequeued_inStep (h : State.InStep s₁ s₂ t₁ t₂) (inst x : Byte) (ha : t₁.answer = t₂.answer) :
    State.InStep s₁ s₂ (sendDequeued t₁ inst x) (sendDequeued t₂ inst x) := by
  have hread := h.regRead inst.toNat .status ha
  unfold sendDequeued
  rw [h.config, ha]
  split
  · exact (hread.regWrite _ _ _).ret _
  · exact (hread.report _ _ _).resume ((hread.report _ _ _).ret _)

theorem reportIf_inStep (h : State.InStep s₁ s₂ t₁ t₂) (flag : Bool) (k : ErrorKind) (inst : Byte) :
    State.InStep s₁ s₂ (reportIf flag k inst t₁) (reportIf flag k inst t₂) := by
  cases flag
  · exact h
  · exact h.report k inst opRecvUpdate

theorem lineReports_inStep (h : State.InStep s₁ s₂ t₁ t₂) (v inst : Byte) :
    State.InStep s₁ s₂ (lineReports v inst t₁) (lineReports v inst t₂) := by
  unfold lineReports
  rw [h.config]
  have hfe := reportIf_inStep h (fe t₂.config v) .framing inst
  have hovr := hfe.resume (reportIf_inStep hfe (ovr t₂.config v) .overrun inst)
  exact hovr.resume (reportIf_inStep hovr (pe t₂.config v) .parity inst)

theorem receiveData_inStep (h : State.InStep s₁ s₂ t₁ t₂) (err : Bool) (inst : Byte)
    (ha : t₁.answer = t₂.answer) :
    State.InStep s₁ s₂ (receiveData err inst t₁) (receiveData err inst t₂) :=
  h.next (by simpa using h.config) (by simpa using h.halted) (receiveData_shows err inst t₁)
    (ha ▸ receiveData_shows err inst t₂)

/-- Both runs take the snapshot in the same way, with the same change of the receive buffer. -/
theorem receiveSnapshot_inStep {inst : Byte} (h : State.InStep s₁ s₂ t₁ t₂)
    (hi₁ : inst.toNat < t₁.uarts.length) (hi₂ : inst.toNat < t₂.uarts.length)
    (hrx : (t₁.uart inst.toNat).rx = (t₂.uart inst.toNat).rx) (ha : t₁.answer = t₂.answer)
    (hd : t₁.takeAnswer.answer = t₂.takeAnswer.answer) :
    State.InStep s₁ s₂ (receiveSnapshot t₁ inst) (receiveSnapshot t₂ inst) ∧
    ((receiveSnapshot t₁ inst).uart inst.toNat).rx = ((receiveSnapshot t₂ inst).uart inst.toNat).rx := by
  have hread := h.regRead inst.toNat .status ha
  have huart (t : State) : ((t.regRead inst.toNat .status).uart inst.toNat) = t.uart inst.toNat :=
    State.uart_congr (t.regRead_uarts _ _) _
  cases hrxc : rxc t₂.config t₂.answer with
  | false =>
    rw [receiveSnapshot_of_not_rxc hrxc, receiveSnapshot_of_not_rxc (by rw [h.config, ha, hrxc])]
    refine ⟨hread.ret _, ?_⟩
    simp only [State.uart_congr (State.ret_uarts _ _), huart, hrx]
  | true =>
    rw [receiveSnapshot_of_rxc hrxc, receiveSnapshot_of_rxc (by rw [h.config, ha, hrxc]), h.config, ha]
    have hlines := lineReports_inStep hread t₂.answer inst
    have hlineuart (t : State) :
        (lineReports t₂.answer inst (t.regRead inst.toNat .status)).uart inst.toNat = t.uart inst.toNat :=
      (State.uart_congr (lineReports_uarts _ _ _) _).trans (huart t)
    have hdata : (lineReports t₂.answer inst (t₁.regRead inst.toNat .status)).answer =
        (lineReports t₂.answer inst (t₂.regRead inst.toNat .status)).answer := by
      simpa [State.regRead_eq_log] using hd
    refine ⟨hlines.resume (receiveData_inStep hlines _ inst hdata),
      hlines.resume_congr (g := fun t => (t.uart inst.toNat).rx) (by simp only [hlineuart, hrx]) ?_⟩
    rw [receiveData_rx _ (by simpa using hi₁), receiveData_rx _ (by simpa using hi₂), hlineuart, hlineuart, hrx, hdata]

end Rules

section Runs

variable {s₁ s₂ : State} {inst : Byte} (hs₁ : s₁.Shape) (hs₂ : s₂.Shape)
  (hr₁ : s₁.isReady = true) (hr₂ : s₂.isReady = true) (hstep : State.InStep s₁ s₂ s₁ s₂) (ha : s₁.answer = s₂.answer)
include hs₁ hs₂ hr₁ hr₂ hstep ha

/-- SEND_UPDATE in two states with the same send buffer and status byte. -/
theorem exec_sendUpdate_inStep (htx : (s₁.uart inst.toNat).tx = (s₂.uart inst.toNat).tx) :
    ∃ t₁ t₂, exec (.sendUpdate inst) s₁ = .next t₁ ∧ exec (.sendUpdate inst) s₂ = .next t₂ ∧
      (t₁.uart inst.toNat).tx = (t₂.uart inst.toNat).tx ∧ State.InStep s₁ s₂ t₁ t₂ := by
  have hbad : s₁.badInst inst = s₂.badInst inst := State.badInst_congr hstep.config inst
  cases hi : s₂.badInst inst with
  | true =>
    refine ⟨_, _, exec_sendUpdate_of_badInst hr₁ (hbad.trans hi), exec_sendUpdate_of_badInst hr₂ hi, ?_,
      hstep.paramError _ _ _⟩
    simp only [State.uart_congr (State.paramError_uarts _ _ _ _), htx]
  | false =>
    cases hdeq : (s₂.uart inst.toNat).tx.deq with
    | none =>
      refine ⟨_, _, exec_sendUpdate_of_empty hr₁ (hbad.trans hi) (htx ▸ hdeq), exec_sendUpdate_of_empty hr₂ hi hdeq, ?_,
        hstep.ret _⟩
      simp only [State.uart_congr (State.ret_uarts _ _), htx]
    | some xb =>
      have hlt := (s₂.badInst_eq_false_iff inst).1 hi
      refine ⟨_, _, exec_sendUpdate_of_byte hr₁ (hbad.trans hi) (htx ▸ hdeq), exec_sendUpdate_of_byte hr₂ hi hdeq, ?_,
        sendDequeued_inStep (hstep.setUart _ _ _) _ _ ha⟩
      rw [sendDequeued_tx _ _ (by rw [hs₁.length, hstep.config]; exact hlt),
        sendDequeued_tx _ _ (by rw [hs₂.length]; exact hlt)]

/-- RECV_UPDATE in two states with the same receive buffer, status byte and data byte. -/
theorem exec_recvUpdate_inStep (hrx : (s₁.uart inst.toNat).rx = (s₂.uart inst.toNat).rx)
    (hd : s₁.takeAnswer.answer = s₂.takeAnswer.answer) :
    ∃ t₁ t₂, exec (.recvUpdate inst) s₁ = .next t₁ ∧ exec (.recvUpdate inst) s₂ = .next t₂ ∧
      (t₁.uart inst.toNat).rx = (t₂.uart inst.toNat).rx ∧ State.InStep s₁ s₂ t₁ t₂ := by
  have hbad : s₁.badInst inst = s₂.badInst inst := State.badInst_congr hstep.config inst
  cases hi : s₂.badInst inst with
  | true =>
    refine ⟨_, _, exec_recvUpdate_of_badInst hr₁ (hbad.trans hi), exec_recvUpdate_of_badInst hr₂ hi, ?_,
      hstep.paramError _ _ _⟩
    simp only [State.uart_congr (State.paramError_uarts _ _ _ _), hrx]
  | false =>
    have hlt := (s₂.badInst_eq_false_iff inst).1 hi
    obtain ⟨hrun, hrx'⟩ := receiveSnapshot_inStep hstep (by rw [hs₁.length, hstep.config]; exact hlt)
      (by rw [hs₂.length]; exact hlt) hrx ha hd
    exact ⟨_, _, exec_recvUpdate_of_inst hr₁ (hbad.trans hi), exec_recvUpdate_of_inst hr₂ hi, hrx', hrun⟩

end Runs

/-- Settles O27: the two runs take the same branches and stay in step. -/
theorem updatesDependOnTheSnapshotOnly : Obligations.UpdatesDependOnTheSnapshotOnly := by
  unfold Obligations.UpdatesDependOnTheSnapshotOnly
  intro inst s₁ s₂ hs₁ hs₂ hc hr₁ hr₂ hh₁ hh₂ ha
  have hstep : State.InStep s₁ s₂ s₁ s₂ := .refl hc (hh₁.trans hh₂.symm)
  refine ⟨fun htx => ?_, fun hrx hd => ?_⟩
  · obtain ⟨t₁, t₂, h₁, h₂, hbuf, hrun⟩ := exec_sendUpdate_inStep hs₁ hs₂ hr₁ hr₂ hstep ha htx
    exact ⟨t₁, t₂, h₁, h₂, hbuf, hrun.accesses_reports⟩
  · obtain ⟨t₁, t₂, h₁, h₂, hbuf, hrun⟩ := exec_recvUpdate_inStep hs₁ hs₂ hr₁ hr₂ hstep ha hrx hd
    exact ⟨t₁, t₂, h₁, h₂, hbuf, hrun.accesses_reports⟩

end Sys2Proof.Machine

/-! The byte commands case by case: the next state of SEND_BYTE, RECV_BYTE and PEEK_LAST_BYTE on a Ready block
(spec/43_byte_string_api.md R181, R182, R185). -/

namespace Sys2Proof

/-- R94: the word of a command with a pointer and no operand. -/
theorem packD_pv_inst_eq_or (op : BitVec 4) (pv : Bool) (inst : Byte) : packD op pv inst 0 =
    op.setWidth 32 <<< 28 ||| (BitVec.ofBool pv).setWidth 32 <<< 24 ||| inst.setWidth 32 <<< 16 := by
  simp [packD_eq_or]

/-- R93: the byte of SEND_BYTE stands in the low half of its operand. -/
theorem packD_byte_eq_or (op : BitVec 4) (inst byte : Byte) : packD op false inst (0#8 ++ byte) =
    op.setWidth 32 <<< 28 ||| inst.setWidth 32 <<< 16 ||| byte.setWidth 32 := by
  have hbyte : (0#8 ++ byte).setWidth 32 = byte.setWidth 32 :=
    BitVec.eq_of_toNat_eq (by rw [BitVec.toNat_setWidth, BitVec.toNat_append]; simp)
  simp [packD_eq_or, hbyte]

end Sys2Proof

namespace Sys2Proof.Machine

theorem State.badArgs_iff (s : State) (pv : Bool) (inst : Byte) :
    s.badArgs pv inst = true ↔ s.config.nInst ≤ inst.toNat ∨ pv = false := by
  simp [State.badArgs, State.badInst_iff]

/-- An output byte joins the trace and the caller's destination before the return. -/
theorem State.outWrite_ret (s : State) (k : Nat) (x : Byte) (r : Result) :
    (s.outWrite k x).ret r = s.returned [.outWrite s.turn k x] r (s.cmd.dst.set k x) := by
  have hqueue (p : Port) : ((s.outWrite k x).ret r).queue p =
      (s.returned [.outWrite s.turn k x] r (s.cmd.dst.set k x)).queue p := by
    rw [State.ret_queue, State.returned_queue, State.outWrite_turn]
    split
    case isTrue hp => rw [hp, State.outWrite_queue_tail]
    case isFalse hp => exact s.outWrite_queue_other k x hp
  apply State.eq_of_fields <;> simp [State.outWrite_cmd_dst, hqueue]

section Byte

variable {s : State} {pv : Bool} {inst x : Byte} {b : Buffer} (hr : s.isReady = true)
include hr

theorem exec_sendByte_of_badInst (hi : s.badInst inst = true) :
    exec (.sendByte inst x) s = .next (s.paramError inst opSendByte (.ok false)) := by
  simp only [exec, execSendByte, State.whenReady_ready _ hr, hi, if_true]

theorem exec_sendByte_of_full (hi : s.badInst inst = false) (henq : (s.uart inst.toNat).tx.enq x = none) :
    exec (.sendByte inst x) s = .next (s.returned [] (.ok false) s.cmd.dst) := by
  simp only [exec, execSendByte, State.whenReady_ready _ hr, hi, henq, Bool.false_eq_true, if_false,
    State.ret_eq_returned]

theorem exec_sendByte_of_room (hi : s.badInst inst = false) (henq : (s.uart inst.toNat).tx.enq x = some b) :
    exec (.sendByte inst x) s = .next ((s.setTx inst.toNat b).returned [] (.ok true) s.cmd.dst) := by
  simp only [exec, execSendByte, State.whenReady_ready _ hr, hi, henq, Bool.false_eq_true, if_false,
    State.ret_eq_returned, State.setTx_cmd]

theorem exec_recvByte_of_badArgs (ha : s.badArgs pv inst = true) :
    exec (.recvByte pv inst) s = .next (s.paramError inst opRecvByte (.ok false)) := by
  simp only [exec, execRecvByte, State.whenReady_ready _ hr, ha, if_true]

theorem exec_peekLastByte_of_badArgs (ha : s.badArgs pv inst = true) :
    exec (.peekLastByte pv inst) s = .next (s.paramError inst opPeekLastByte (.ok false)) := by
  simp only [exec, execPeekLastByte, State.whenReady_ready _ hr, ha, if_true]

variable (ha : s.badArgs pv inst = false) (hdst : ¬ s.cmd.dst.length < 1)
include ha hdst

theorem exec_recvByte_of_empty (hdeq : (s.uart inst.toNat).rx.deq = none) :
    exec (.recvByte pv inst) s = .next (s.returned [] (.ok false) s.cmd.dst) := by
  simp only [exec, execRecvByte, State.whenReady_ready _ hr, ha, hdst, hdeq, Bool.false_eq_true, if_false,
    State.ret_eq_returned]

theorem exec_recvByte_of_byte (hdeq : (s.uart inst.toNat).rx.deq = some (x, b)) :
    exec (.recvByte pv inst) s =
      .next ((s.setRx inst.toNat b).returned [.outWrite s.turn 0 x] (.ok true) (s.cmd.dst.set 0 x)) := by
  simp only [exec, execRecvByte, State.whenReady_ready _ hr, ha, hdst, hdeq, Bool.false_eq_true, if_false,
    State.outWrite_ret, State.setRx_cmd, State.setRx_turn]

theorem exec_peekLastByte_of_empty (hpeek : (s.uart inst.toNat).rx.peekLast = none) :
    exec (.peekLastByte pv inst) s = .next (s.returned [] (.ok false) s.cmd.dst) := by
  simp only [exec, execPeekLastByte, State.whenReady_ready _ hr, ha, hdst, hpeek, Bool.false_eq_true, if_false,
    State.ret_eq_returned]

theorem exec_peekLastByte_of_byte (hpeek : (s.uart inst.toNat).rx.peekLast = some x) :
    exec (.peekLastByte pv inst) s =
      .next (s.returned [.outWrite s.turn 0 x] (.ok true) (s.cmd.dst.set 0 x)) := by
  simp only [exec, execPeekLastByte, State.whenReady_ready _ hr, ha, hdst, hpeek, Bool.false_eq_true, if_false,
    State.outWrite_ret]

end Byte

/-- Settles O28: the cases are those of the validation and of the Enqueue. -/
theorem sendByteEnqueues : Obligations.SendByteEnqueues := by
  unfold Obligations.SendByteEnqueues
  refine fun s inst byte hr => ⟨congrArg _ (packD_byte_eq_or 3 inst byte), fun hs hi hh => ?_, fun _ hi hfull => ?_,
    fun _ hi hroom => ?_⟩
  · rw [exec_sendByte_of_badInst hr ((s.badInst_iff inst).2 hi)]
    exact congrArg _ (State.paramError_eq_returned _ hs hh)
  · exact exec_sendByte_of_full hr ((s.badInst_eq_false_iff inst).2 hi) (Buffer.enq_none.2 hfull)
  · exact exec_sendByte_of_room hr ((s.badInst_eq_false_iff inst).2 hi) (Buffer.enq_some.2 ⟨hroom, rfl⟩)

/-- Settles O29: the cases are those of the validation and of the Dequeue, from a head inside the storage. -/
theorem recvByteDequeues : Obligations.RecvByteDequeues := by
  unfold Obligations.RecvByteDequeues
  refine fun s pv inst hr => ⟨congrArg _ (packD_pv_inst_eq_or 4 pv inst), fun hs hi hh => ?_, fun hinv hi hdst => ?_⟩
  · rw [exec_recvByte_of_badArgs hr ((s.badArgs_iff pv inst).2 hi)]
    exact congrArg _ (State.paramError_eq_returned _ hs hh)
  · have ha := State.badArgs_eq_false hi
    refine ⟨fun hempty => exec_recvByte_of_empty hr ha (not_lt.2 hdst) (Buffer.deq_none.2 hempty), fun hne => ?_⟩
    obtain ⟨x, hx, hdeq⟩ := (hinv.uart_wf hr _ hi).rx.exists_deq hne
    exact ⟨x, hx, exec_recvByte_of_byte hr ha (not_lt.2 hdst) hdeq⟩

/-- Settles O30: the cases are those of the validation and of PeekLast, from the place behind the tail. -/
theorem peekLastByteDeliversTheNewest : Obligations.PeekLastByteDeliversTheNewest := by
  unfold Obligations.PeekLastByteDeliversTheNewest
  refine fun s pv inst hr => ⟨congrArg _ (packD_pv_inst_eq_or 7 pv inst), fun hs hi hh => ?_, fun hinv hi hdst => ?_⟩
  · rw [exec_peekLastByte_of_badArgs hr ((s.badArgs_iff pv inst).2 hi)]
    exact congrArg _ (State.paramError_eq_returned _ hs hh)
  · have ha := State.badArgs_eq_false hi
    have hwf := (hinv.uart_wf hr _ hi).rx
    refine ⟨fun hempty => exec_peekLastByte_of_empty hr ha (not_lt.2 hdst) (Buffer.peekLast_none.2 hempty),
      fun hne => ?_⟩
    rw [← hwf.behindTail_eq_ite]
    exact ⟨_, Buffer.getElem?_eq_some_getD hwf.behindTail_lt,
      exec_peekLastByte_of_byte hr ha (not_lt.2 hdst) (Buffer.peekLast_some.2 ⟨hne, rfl⟩)⟩

end Sys2Proof.Machine

/-! The string commands step by step: the next state of SEND_STRING and RECV_STRING on a Ready block
(spec/43_byte_string_api.md R183, R184). -/

namespace Sys2Proof.Machine

/-! ### The running command -/

/-- A port inside the loop of a string command has that command presented. -/
theorem State.queue_ne_nil_of_progress {s : State} {k : Nat} (h : s.cmd.progress = some k) : s.queue s.turn ≠ [] := by
  intro hq
  simp [State.cmd, hq, Command.nothing] at h

theorem State.setCmd_of_nil {s : State} (c : Command) (h : s.queue s.turn = []) : s.setCmd c = s := by
  simp only [State.setCmd, h]

theorem State.setCmd_of_cons {s : State} {d : Command} {q : List Command} (c : Command)
    (h : s.queue s.turn = d :: q) : s.setCmd c = s.setQueue s.turn (c :: q) := by simp only [State.setCmd, h]

theorem State.setQueue_setQueue (s : State) (p : Port) (q q' : List Command) :
    (s.setQueue p q).setQueue p q' = s.setQueue p q' := by cases p <;> rfl

theorem State.emit_setQueue (s : State) (e : Event) (p : Port) (q : List Command) :
    (s.emit e).setQueue p q = (s.setQueue p q).emit e := by cases p <;> rfl

/-- Of two replacements of the running command the second counts. -/
theorem State.setCmd_setCmd (s : State) (c d : Command) : (s.setCmd c).setCmd d = s.setCmd d := by
  cases hq : s.queue s.turn with
  | nil => rw [State.setCmd_of_nil c hq]
  | cons c' q =>
    have hc : (s.setCmd c).queue (s.setCmd c).turn = c :: q := by rw [State.setCmd_turn, State.setCmd_queue, hq]
    rw [State.setCmd_of_cons d hc, State.setCmd_turn, State.setCmd_of_cons c hq, State.setCmd_of_cons d hq,
      State.setQueue_setQueue]

/-- The command and the trace are changed independently. -/
theorem State.emit_setCmd (s : State) (e : Event) (c : Command) : (s.emit e).setCmd c = (s.setCmd c).emit e := by
  have he : (s.emit e).queue (s.emit e).turn = s.queue s.turn := s.emit_queue e s.turn
  cases hq : s.queue s.turn with
  | nil => rw [State.setCmd_of_nil c hq, State.setCmd_of_nil c (he.trans hq)]
  | cons d q => rw [State.setCmd_of_cons c hq, State.setCmd_of_cons c (he.trans hq), State.emit_turn,
      State.emit_setQueue]

/-- An output byte and the move of the index replace the running command once. -/
theorem State.outWrite_advance {s : State} (k j : Nat) (x : Byte) (hq : s.queue s.turn ≠ []) :
    (s.outWrite k x).advance j = { s.setCmd { s.cmd with dst := s.cmd.dst.set k x, progress := some j } with
      trace := s.trace ++ [.outWrite s.turn k x] } := by
  rw [State.advance, State.outWrite, State.emit_cmd, State.setCmd_cmd hq, State.emit_setCmd, State.setCmd_setCmd]
  simp [State.emit]

/-! ### The parts of a string command -/

section Parts

variable {s : State} {pv : Bool} {inst op x : Byte} {len : Len} {extent k : Nat} {b : Buffer}

theorem stringEntry_of_zero (hlen : len.toNat = 0) : stringEntry pv inst len op extent s = .next (s.ret (countOf 0)) :=
  if_pos hlen

theorem stringEntry_of_badArgs (hlen : len.toNat ≠ 0) (ha : s.badArgs pv inst = true) :
    stringEntry pv inst len op extent s = .next (s.paramError inst op (countOf 0)) := by
  rw [stringEntry, if_neg hlen, if_pos ha]

theorem stringEntry_of_valid (hlen : len.toNat ≠ 0) (ha : s.badArgs pv inst = false) (he : len.toNat ≤ extent) :
    stringEntry pv inst len op extent s = .next (s.advance 0) := by
  rw [stringEntry, if_neg hlen, ha, if_neg Bool.false_ne_true, if_neg (not_lt.2 he)]

theorem stringMoved_of_lt (hk : k + 1 < len.toNat) : stringMoved len k s = s.advance (k + 1) := if_pos hk

/-- After the last byte the command returns its length. -/
theorem stringMoved_of_eq (hk : k + 1 = len.toNat) : stringMoved len k s = s.ret (.count len) := by
  rw [stringMoved, if_neg (by omega), hk, countOf, BitVec.ofNat_toNat, BitVec.setWidth_eq]

theorem sendIteration_of_full (hk : k < len.toNat) (hx : s.cmd.src[k]? = some x)
    (henq : (s.uart inst.toNat).tx.enq x = none) : sendIteration inst len k s = .next (s.ret (countOf k)) := by
  simp only [sendIteration, hk, hx, henq, if_true]

theorem sendIteration_of_room (hk : k < len.toNat) (hx : s.cmd.src[k]? = some x)
    (henq : (s.uart inst.toNat).tx.enq x = some b) :
    sendIteration inst len k s = .next (stringMoved len k (s.setTx inst.toNat b)) := by
  simp only [sendIteration, hk, hx, henq, if_true]

theorem recvIteration_of_empty (hk : k < len.toNat) (hdeq : (s.uart inst.toNat).rx.deq = none) :
    recvIteration inst len k s = .next (s.ret (countOf k)) := by
  simp only [recvIteration, hk, hdeq, if_true]

theorem recvIteration_of_byte (hk : k < len.toNat) (hdeq : (s.uart inst.toNat).rx.deq = some (x, b)) :
    recvIteration inst len k s = .next (stringMoved len k ((s.setRx inst.toNat b).outWrite k x)) := by
  simp only [recvIteration, hk, hdeq, if_true]

variable (hr : s.isReady = true)
include hr

theorem exec_sendString_of_none (hp : s.cmd.progress = none) :
    exec (.sendString pv inst len) s = stringEntry pv inst len opSendString s.cmd.src.length s := by
  simp only [exec, execSendString, State.whenReady_ready _ hr, hp]

theorem exec_sendString_of_some (hp : s.cmd.progress = some k) :
    exec (.sendString pv inst len) s = sendIteration inst len k s := by
  simp only [exec, execSendString, State.whenReady_ready _ hr, hp]

theorem exec_recvString_of_none (hp : s.cmd.progress = none) :
    exec (.recvString pv inst len) s = stringEntry pv inst len opRecvString s.cmd.dst.length s := by
  simp only [exec, execRecvString, State.whenReady_ready _ hr, hp]

theorem exec_recvString_of_some (hp : s.cmd.progress = some k) :
    exec (.recvString pv inst len) s = recvIteration inst len k s := by
  simp only [exec, execRecvString, State.whenReady_ready _ hr, hp]

end Parts

/-- Settles O32: the first step is that of every string command; an iteration is the Enqueue and what follows it. -/
theorem sendStringSteps : Obligations.SendStringSteps := by
  unfold Obligations.SendStringSteps
  refine fun s pv inst len hr => ⟨congrArg _ (packD_eq_or 5 pv inst len), fun hp hlen => ?_,
    fun hp hlen hi hs hh => ?_, fun hp hlen hi he => ?_, fun k x _ hi hp hk hx => ?_⟩
  · rw [exec_sendString_of_none hr hp, stringEntry_of_zero (hlen ▸ rfl), State.ret_eq_returned]
    rfl
  · rw [exec_sendString_of_none hr hp,
      stringEntry_of_badArgs (BitVec.toNat_ne_iff_ne.2 hlen) ((s.badArgs_iff pv inst).2 hi)]
    exact congrArg _ (State.paramError_eq_returned _ hs hh)
  · rw [exec_sendString_of_none hr hp,
      stringEntry_of_valid (BitVec.toNat_ne_iff_ne.2 hlen) (State.badArgs_eq_false hi) he]
    rfl
  · rw [exec_sendString_of_some hr hp]
    refine ⟨fun hfull => ?_, fun hroom hlt => ?_, fun hroom heq => ?_⟩
    · rw [sendIteration_of_full hk hx (Buffer.enq_none.2 hfull), State.ret_eq_returned]
      rfl
    · rw [sendIteration_of_room hk hx (Buffer.enq_some.2 ⟨hroom, rfl⟩), stringMoved_of_lt hlt, State.advance,
        State.setTx_cmd]
    · rw [sendIteration_of_room hk hx (Buffer.enq_some.2 ⟨hroom, rfl⟩), stringMoved_of_eq heq,
        State.ret_eq_returned, State.setTx_cmd]

/-- Settles O33: the first step is that of every string command; an iteration is the Dequeue, the output byte and what
follows it. -/
theorem recvStringSteps : Obligations.RecvStringSteps := by
  unfold Obligations.RecvStringSteps
  refine fun s pv inst len hr => ⟨congrArg _ (packD_eq_or 6 pv inst len), fun hp hlen => ?_,
    fun hp hlen hi hs hh => ?_, fun hp hlen hi he => ?_, fun k hinv hi hp hk => ?_⟩
  · rw [exec_recvString_of_none hr hp, stringEntry_of_zero (hlen ▸ rfl), State.ret_eq_returned]
    rfl
  · rw [exec_recvString_of_none hr hp,
      stringEntry_of_badArgs (BitVec.toNat_ne_iff_ne.2 hlen) ((s.badArgs_iff pv inst).2 hi)]
    exact congrArg _ (State.paramError_eq_returned _ hs hh)
  · rw [exec_recvString_of_none hr hp,
      stringEntry_of_valid (BitVec.toNat_ne_iff_ne.2 hlen) (State.badArgs_eq_false hi) he]
    rfl
  · rw [exec_recvString_of_some hr hp]
    refine ⟨fun hempty => ?_, fun hne => ?_⟩
    · rw [recvIteration_of_empty hk (Buffer.deq_none.2 hempty), State.ret_eq_returned]
      rfl
    · obtain ⟨x, hx, hdeq⟩ := (hinv.uart_wf hr _ hi).rx.exists_deq hne
      have hq := State.queue_ne_nil_of_progress hp
      rw [recvIteration_of_byte hk hdeq]
      refine ⟨x, hx, fun hlt => ?_, fun heq => ?_⟩
      · rw [stringMoved_of_lt hlt, State.outWrite_advance _ _ _ (by simpa using hq), State.setRx_cmd,
          State.setRx_trace, State.setRx_turn]
      · rw [stringMoved_of_eq heq, State.outWrite_ret, State.setRx_cmd, State.setRx_turn]

end Sys2Proof.Machine

/-! A string command that no other agent interrupts, followed to its return (spec/43_byte_string_api.md R183, R184,
R188). -/

namespace Sys2Proof.Machine

/-! ### Steps in a row -/

/-- Within `n` steps from `s` the block comes to a state with `P`. -/
def State.Reaches (s : State) (n : Nat) (P : State → Prop) : Prop :=
  ∃ (k : Nat) (t : State), k ≤ n ∧ Host.Core.run Sys2Proof.core k s = .next t ∧ P t

theorem State.Reaches.of_self {s : State} {P : State → Prop} (n : Nat) (h : P s) : s.Reaches n P :=
  ⟨0, s, Nat.zero_le n, rfl, h⟩

theorem State.Reaches.of_step {s t : State} {n : Nat} {P : State → Prop} (hs : step s = .next t) (h : t.Reaches n P) :
    s.Reaches (n + 1) P := by
  obtain ⟨k, u, hk, hrun, hu⟩ := h
  refine ⟨k + 1, u, Nat.succ_le_succ hk, ?_, hu⟩
  simp only [Host.Core.run, show Sys2Proof.core.step s = .next t from hs, hrun]

theorem State.Reaches.imp {s : State} {n : Nat} {P Q : State → Prop} (h : s.Reaches n P) (hPQ : ∀ t, P t → Q t) :
    s.Reaches n Q := by
  obtain ⟨k, t, hk, hrun, ht⟩ := h
  exact ⟨k, t, hk, hrun, hPQ t ht⟩

/-- The block is Ready and running, the first command of port `p` is `c`, with `q` behind it, and the next `n` steps are
those of `p`. -/
structure State.AtWork (s : State) (p : Port) (c : Command) (q : List Command) (n : Nat) : Prop where
  inv    : s.Inv
  ready  : s.isReady = true
  halted : s.halted = none
  queue  : s.queue p = c :: q
  sched  : ∃ rest, s.sched = List.replicate n (.port p) ++ rest

/-- From `s` to `t` the first command of port `p` has returned `r`, after the events `es`; `q` was behind it, and `dst`
is the caller's destination. -/
structure State.Completes (s : State) (p : Port) (q : List Command) (es : List Event) (r : Result) (dst : List Byte)
    (t : State) : Prop where
  queue : t.queue p = q
  trace : t.trace = s.trace ++ es ++ [.ret p r dst]

/-- Events before those that `s` has to come. -/
theorem State.Completes.prepend {s w t : State} {p : Port} {q : List Command} {es es' : List Event} {r : Result}
    {dst : List Byte} (h : w.Completes p q es' r dst t) (hw : w.trace = s.trace ++ es) :
    s.Completes p q (es ++ es') r dst t :=
  ⟨h.queue, by rw [h.trace, hw, List.append_assoc s.trace]⟩

section AtWork

variable {s t : State} {p : Port} {c c' : Command} {q : List Command} {n i : Nat}

theorem State.AtWork.lt_length (h : s.AtWork p c q n) (hi : i < s.config.nInst) : i < s.uarts.length :=
  h.inv.length ▸ hi

/-- On its turn the command is the one that is running. -/
theorem State.AtWork.cmd_eq (h : s.AtWork p c q n) (hu : s.turn = p) : s.cmd = c := by
  rw [State.cmd, hu, h.queue]
  rfl

/-- The next step runs the command. -/
theorem State.AtWork.step_eq {o : Instr} (h : s.AtWork p c q (n + 1)) (hd : decode (.d c.word) = .ok o) :
    ∃ u, step s = exec o u ∧ u.turn = p ∧ u.AtWork p c q n ∧ s.SameBlock u ∧ u.trace = s.trace := by
  obtain ⟨rest, hs⟩ := h.sched
  have hsame : s.SameBlock { s with sched := List.replicate n (.port p) ++ rest, turn := p } := ⟨rfl, rfl, rfl, rfl⟩
  exact ⟨_, stepRunsTheDecodedCommand.1 s p _ c q o h.inv.config_wf h.halted hs h.queue hd, rfl,
    ⟨h.inv.of_same hsame, h.ready, h.halted, (s.queue_with_turn _ _ _).trans h.queue, rest, rfl⟩, hsame, rfl⟩

/-- The instances may evolve. -/
theorem State.AtWork.setUart {v : Uart} (h : s.AtWork p c q n) (hv : (s.uart i).Evolves v) :
    (s.setUart i v).AtWork p c q n where
  inv := h.inv.setUart hv
  ready := (State.isReady_eq_of_ready (by simp) fun j => (State.setUart_evolves hv j).ready).trans h.ready
  halted := h.halted
  queue := (s.setUart_queue i v p).trans h.queue
  sched := h.sched

/-- The command goes on as another one. -/
theorem State.AtWork.of_same (h : s.AtWork p c q n) (k : s.SameBlock t) (hh : t.halted = s.halted)
    (hs : t.sched = s.sched) (hq : t.queue p = c' :: q) : t.AtWork p c' q n :=
  ⟨h.inv.of_same k, (State.isReady_congr k.uarts).trans h.ready, hh.trans h.halted, hq, hs ▸ h.sched⟩

theorem State.AtWork.setCmd_queue (h : s.AtWork p c q n) (hu : s.turn = p) (d : Command) :
    (s.setCmd d).queue p = d :: q := by
  subst hu
  rw [State.setCmd_queue, h.queue]

theorem State.AtWork.advance (h : s.AtWork p c q n) (hu : s.turn = p) (k : Nat) :
    (s.advance k).AtWork p { c with progress := some k } q n :=
  h.of_same (s.advance_same k) (s.advance_halted k) (s.advance_sched k) (by
    rw [State.advance, h.setCmd_queue hu, h.cmd_eq hu])

theorem State.AtWork.outWrite (h : s.AtWork p c q n) (hu : s.turn = p) (k : Nat) (x : Byte) :
    (s.outWrite k x).AtWork p { c with dst := c.dst.set k x } q n :=
  h.of_same (s.outWrite_same k x) (s.outWrite_halted k x) (s.outWrite_sched k x) (by
    rw [State.outWrite, State.emit_queue, h.setCmd_queue hu, h.cmd_eq hu])

theorem State.AtWork.ret_completes (h : s.AtWork p c q n) (hu : s.turn = p) (r : Result) :
    s.Completes p q [] r c.dst (s.ret r) where
  queue := by rw [State.ret_queue, if_pos hu.symm, h.queue, List.tail_cons]
  trace := by rw [State.ret_trace, h.cmd_eq hu, hu, List.append_nil]

end AtWork

/-! ### Replacing a buffer again -/

section Replace

variable {s : State} {i : Nat}

theorem State.setUart_self (hi : i < s.uarts.length) : s.setUart i (s.uart i) = s := by
  rw [State.setUart, State.uart_eq_getElem hi, List.set_getElem_self]

theorem State.setUart_setUart (s : State) (i : Nat) (u v : Uart) : (s.setUart i u).setUart i v = s.setUart i v := by
  simp [State.setUart]

theorem State.setTx_self (hi : i < s.uarts.length) : s.setTx i (s.uart i).tx = s := State.setUart_self hi

theorem State.setRx_self (hi : i < s.uarts.length) : s.setRx i (s.uart i).rx = s := State.setUart_self hi

theorem State.setTx_setTx (hi : i < s.uarts.length) (b b' : Buffer) : (s.setTx i b).setTx i b' = s.setTx i b' := by
  simp only [State.setTx, State.setUart_uart_same _ hi, State.setUart_setUart]

theorem State.setRx_setRx (hi : i < s.uarts.length) (b b' : Buffer) : (s.setRx i b).setRx i b' = s.setRx i b' := by
  simp only [State.setRx, State.setUart_uart_same _ hi, State.setUart_setUart]

theorem State.setTx_congr {t : State} (h : s.uarts = t.uarts) (i : Nat) (b : Buffer) :
    (s.setTx i b).uarts = (t.setTx i b).uarts := by
  rw [State.setTx_uarts, State.setTx_uarts, h, State.uart_congr h]

theorem State.setRx_congr {t : State} (h : s.uarts = t.uarts) (i : Nat) (b : Buffer) :
    (s.setRx i b).uarts = (t.setRx i b).uarts := by
  rw [State.setRx_uarts, State.setRx_uarts, h, State.uart_congr h]

end Replace

/-! ### The loop -/

/-- The string command has moved `k` bytes: it goes on, or returns. -/
def State.loopAt (s : State) (len : Len) (k : Nat) : State :=
  if k < len.toNat then s.advance k else s.ret (countOf k)

theorem State.loopAt_of_lt {s : State} {len : Len} {k : Nat} (h : k < len.toNat) : s.loopAt len k = s.advance k :=
  if_pos h

theorem State.loopAt_of_eq {s : State} {len : Len} {k : Nat} (h : k = len.toNat) : s.loopAt len k = s.ret (countOf k) :=
  if_neg (by omega)

theorem stringMoved_eq_loopAt (len : Len) (k : Nat) (s : State) : stringMoved len k s = s.loopAt len (k + 1) := rfl

/-- With valid arguments the first step enters the loop, or returns 0. -/
theorem stringEntry_eq_loopAt {pv : Bool} {inst op : Byte} {len : Len} {extent : Nat} {s : State}
    (ha : s.badArgs pv inst = false) (he : len.toNat ≤ extent) :
    stringEntry pv inst len op extent s = .next (s.loopAt len 0) := by
  by_cases hlen : len.toNat = 0
  · rw [stringEntry_of_zero hlen, State.loopAt_of_eq hlen.symm]
  · rw [stringEntry_of_valid hlen ha he, State.loopAt_of_lt (Nat.pos_of_ne_zero hlen)]

/-- The free places of a buffer. -/
def Buffer.room (b : Buffer) : Nat := b.cap - b.count

theorem Buffer.room_of_enq_none {b : Buffer} {x : Byte} (h : b.enq x = none) : b.room = 0 := by
  rw [Buffer.room, Buffer.enq_none.1 h, Nat.sub_self]

theorem Buffer.WF.room_of_enq_some {b b' : Buffer} {x : Byte} (hb : b.WF) (h : b.enq x = some b') :
    b.room = b'.room + 1 := by
  have hle := hb.count_le
  have hcap := Buffer.enq_cap h
  obtain ⟨hne, rfl⟩ := Buffer.enq_some.1 h
  rw [Buffer.room, Buffer.room, hcap]
  show b.cap - b.count = b.cap - (b.count + 1) + 1
  omega

/-- The output bytes of a command that has delivered `bytes` from position `k` on. -/
def outWrites (p : Port) (k : Nat) (bytes : List Byte) : List Event :=
  (bytes.zipIdx k).map fun x => .outWrite p x.2 x.1

theorem outWrites_cons (p : Port) (k : Nat) (x : Byte) (bytes : List Byte) :
    outWrites p k (x :: bytes) = [.outWrite p k x] ++ outWrites p (k + 1) bytes := rfl

/-- The destination with `bytes` delivered from position `k` on. -/
def delivered (dst : List Byte) (k : Nat) (bytes : List Byte) : List Byte :=
  dst.take k ++ bytes ++ dst.drop (k + bytes.length)

theorem delivered_nil (dst : List Byte) (k : Nat) : delivered dst k [] = dst := by simp [delivered]

theorem delivered_cons {dst : List Byte} {k : Nat} (hk : k < dst.length) (x : Byte) (bytes : List Byte) :
    delivered dst k (x :: bytes) = delivered (dst.set k x) (k + 1) bytes := by
  have htake : (dst.set k x).take (k + 1) = dst.take k ++ [x] := by
    rw [List.take_succ_eq_append_getElem (by simpa using hk), List.take_set_of_le (Nat.le_refl k),
      List.getElem_set_self]
  have hdrop : (dst.set k x).drop (k + 1 + bytes.length) = dst.drop (k + (bytes.length + 1)) := by
    rw [List.drop_set_of_lt (by omega), Nat.add_right_comm, Nat.add_assoc]
  rw [delivered, delivered, htake, hdrop, List.length_cons, List.append_assoc (dst.take k) [x],
    List.singleton_append]

/-- On its turn a string command that goes on takes its next step. -/
theorem State.AtWork.loopAt_step {s : State} {p : Port} {c : Command} {q : List Command} {len : Len} {k d : Nat}
    {o : Instr} (h : s.AtWork p c q (d + 1)) (hu : s.turn = p) (hd : decode (.d c.word) = .ok o)
    (hk : k < len.toNat) : ∃ u, step (s.loopAt len k) = exec o u ∧ u.turn = p ∧
      u.AtWork p { c with progress := some k } q d ∧ u.config = s.config ∧ u.uarts = s.uarts ∧ u.trace = s.trace := by
  obtain ⟨u, hstep, hut, hwork, hsame, htrace⟩ := (h.advance hu k).step_eq hd
  exact ⟨u, State.loopAt_of_lt hk ▸ hstep, hut, hwork, hsame.config.trans (s.advance_config k),
    hsame.uarts.trans (s.advance_uarts k), htrace.trans (s.advance_trace k)⟩

/-! ### SEND_STRING -/

/-- From `s` to `t` the SEND_STRING of `src`, with `k` bytes enqueued and `d` to go, has returned on port `p`: of these it
has enqueued as many as there was room for. -/
structure State.Sent (s : State) (p : Port) (q : List Command) (src dst : List Byte) (i k d : Nat)
    (t : State) : Prop where
  completes : s.Completes p q [] (countOf (k + min d (s.uart i).tx.room)) dst t
  buffer    : ∃ b, t.uarts = (s.setTx i b).uarts ∧
    b.contents = (s.uart i).tx.contents ++ (src.drop k).take (min d (s.uart i).tx.room)

section Send

variable {s t u : State} {p : Port} {c : Command} {q : List Command} {src dst : List Byte} {i k d n : Nat}

/-- The statement is of the instances and the trace before the command. -/
theorem State.Sent.of_congr (h : u.Sent p q src dst i k d t) (hu : u.uarts = s.uarts) (ht : u.trace = s.trace) :
    s.Sent p q src dst i k d t := by
  obtain ⟨hdone, b, hb, hcont⟩ := h
  rw [State.uart_congr hu] at hdone hcont
  exact ⟨hdone.prepend (es := []) (ht.trans (List.append_nil _).symm), b, hb.trans (State.setTx_congr hu i b), hcont⟩

/-- With no byte to go, or no room, the command returns. -/
theorem State.Sent.of_ret (h : s.AtWork p c q n) (hu : s.turn = p) (hi : i < s.uarts.length)
    (h0 : min d (s.uart i).tx.room = 0) : s.Sent p q src c.dst i k d (s.ret (countOf k)) := by
  refine ⟨?_, (s.uart i).tx, ?_, ?_⟩
  · rw [h0]; exact h.ret_completes hu _
  · rw [State.setTx_self hi, State.ret_uarts]
  · rw [h0, List.take_zero, List.append_nil]

/-- One byte enqueued, and then the rest. -/
theorem State.Sent.of_enq {b : Buffer} (hi : i < s.uarts.length) (hb : (s.uart i).tx.WF) (hk : k < src.length)
    (henq : (s.uart i).tx.enq src[k] = some b) (h : (s.setTx i b).Sent p q src dst i (k + 1) d t) :
    s.Sent p q src dst i k (d + 1) t := by
  obtain ⟨hdone, b', hb', hcont⟩ := h
  have htx : ((s.setTx i b).uart i).tx = b := by rw [State.setTx, State.setUart_uart_same _ hi]
  have hm : min (d + 1) (s.uart i).tx.room = min d b.room + 1 := by
    rw [hb.room_of_enq_some henq, Nat.succ_min_succ]
  rw [htx] at hdone hcont
  refine ⟨?_, b', hb'.trans (by rw [State.setTx_setTx hi]), ?_⟩
  · rw [hm, ← Nat.add_assoc, Nat.add_right_comm]
    exact ⟨hdone.queue, hdone.trace⟩
  · rw [hm, hcont, hb.enq_contents henq, List.drop_eq_getElem_cons hk, List.take_succ_cons, List.append_assoc,
      List.singleton_append]

/-- A SEND_STRING with `d` bytes to go takes at most `d` steps. -/
theorem sendString_reaches {pv : Bool} {inst : Byte} {len : Len} (h : s.AtWork p c q d) (hu : s.turn = p)
    (hd : decode (.d c.word) = .ok (.sendString pv inst len)) (hi : inst.toNat < s.config.nInst)
    (hsrc : len.toNat ≤ c.src.length) (hk : k + d = len.toNat) :
    (s.loopAt len k).Reaches d (s.Sent p q c.src c.dst inst.toNat k d) := by
  induction d generalizing s c k with
  | zero =>
    rw [State.loopAt_of_eq (by omega)]
    exact .of_self 0 (.of_ret h hu (h.lt_length hi) (Nat.zero_min _))
  | succ d ih =>
    have hlt : k < len.toNat := by omega
    have hks : k < c.src.length := by omega
    obtain ⟨u, hstep, hut, hwork, hconf, huarts, htrace⟩ := h.loopAt_step hu hd hlt
    rw [← hconf] at hi
    have hcmd := hwork.cmd_eq hut
    have hx : u.cmd.src[k]? = some c.src[k] := hcmd ▸ List.getElem?_eq_getElem hks
    rw [exec_sendString_of_some hwork.ready (congrArg Command.progress hcmd)] at hstep
    cases henq : (u.uart inst.toNat).tx.enq c.src[k] with
    | none =>
      rw [sendIteration_of_full hlt hx henq] at hstep
      have hret := State.Sent.of_ret (src := c.src) (k := k) (d := d + 1) hwork hut (hwork.lt_length hi)
        (by rw [Buffer.room_of_enq_none henq, Nat.min_zero])
      exact .of_step hstep (.of_self d (hret.of_congr huarts htrace))
    | some b =>
      rw [sendIteration_of_room hlt hx henq, stringMoved_eq_loopAt] at hstep
      have hrest := ih (hwork.setUart (Uart.evolves_txEnq henq)) hut hd hi hsrc (k := k + 1) (by omega)
      have hwf := (hwork.inv.uart_wf hwork.ready _ hi).tx
      exact .of_step hstep (hrest.imp fun t ht =>
        (State.Sent.of_enq (hwork.lt_length hi) hwf hks henq ht).of_congr huarts htrace)

end Send

/-! ### RECV_STRING -/

/-- From `s` to `t` the RECV_STRING with the destination `dst`, with `k` bytes delivered and `d` to go, has returned on
port `p`: of these it has delivered as many as there were. -/
structure State.Received (s : State) (p : Port) (q : List Command) (dst : List Byte) (i k d : Nat) (t : State) :
    Prop where
  completes : s.Completes p q (outWrites p k ((s.uart i).rx.contents.take (min d (s.uart i).rx.count)))
    (countOf (k + min d (s.uart i).rx.count))
    (delivered dst k ((s.uart i).rx.contents.take (min d (s.uart i).rx.count))) t
  buffer    : ∃ b, t.uarts = (s.setRx i b).uarts ∧
    b.contents = (s.uart i).rx.contents.drop (min d (s.uart i).rx.count)

section Recv

variable {s t u : State} {p : Port} {c : Command} {q : List Command} {dst : List Byte} {i k d n : Nat}

/-- The statement is of the instances and the trace before the command. -/
theorem State.Received.of_congr (h : u.Received p q dst i k d t) (hu : u.uarts = s.uarts) (ht : u.trace = s.trace) :
    s.Received p q dst i k d t := by
  obtain ⟨hdone, b, hb, hcont⟩ := h
  rw [State.uart_congr hu] at hdone hcont
  exact ⟨hdone.prepend (es := []) (ht.trans (List.append_nil _).symm), b, hb.trans (State.setRx_congr hu i b), hcont⟩

/-- With no byte to go, or none in the buffer, the command returns. -/
theorem State.Received.of_ret (h : s.AtWork p c q n) (hu : s.turn = p) (hi : i < s.uarts.length)
    (h0 : min d (s.uart i).rx.count = 0) : s.Received p q c.dst i k d (s.ret (countOf k)) := by
  refine ⟨?_, (s.uart i).rx, ?_, ?_⟩
  · rw [h0, List.take_zero, delivered_nil]; exact h.ret_completes hu _
  · rw [State.setRx_self hi, State.ret_uarts]
  · rw [h0, List.drop_zero]

/-- One byte delivered, and then the rest. -/
theorem State.Received.of_deq {b : Buffer} {x : Byte} (hi : i < s.uarts.length) (hu : s.turn = p)
    (hb : (s.uart i).rx.WF) (hk : k < dst.length) (hdeq : (s.uart i).rx.deq = some (x, b))
    (h : ((s.setRx i b).outWrite k x).Received p q (dst.set k x) i (k + 1) d t) :
    s.Received p q dst i k (d + 1) t := by
  obtain ⟨hdone, b', hb', hcont⟩ := h
  have hrx : (((s.setRx i b).outWrite k x).uart i).rx = b := by
    rw [State.uart_congr (State.outWrite_uarts _ _ _), State.setRx, State.setUart_uart_same _ hi]
  have hm : min (d + 1) (s.uart i).rx.count = min d b.count + 1 := by
    rw [← Buffer.contents_length (s.uart i).rx, hb.deq_contents hdeq, List.length_cons, Buffer.contents_length,
      Nat.succ_min_succ]
  have htrace : ((s.setRx i b).outWrite k x).trace = s.trace ++ [.outWrite p k x] := by
    rw [State.outWrite_trace, State.setRx_trace, State.setRx_turn, hu]
  rw [hrx] at hdone hcont
  refine ⟨?_, b', hb'.trans ?_, ?_⟩
  · rw [hm, hb.deq_contents hdeq, List.take_succ_cons, outWrites_cons, delivered_cons hk, ← Nat.add_assoc,
      Nat.add_right_comm]
    exact hdone.prepend htrace
  · rw [State.setRx_congr (State.outWrite_uarts _ _ _), State.setRx_setRx hi]
  · rw [hm, hcont, hb.deq_contents hdeq, List.drop_succ_cons]

/-- A RECV_STRING with `d` bytes to go takes at most `d` steps. -/
theorem recvString_reaches {pv : Bool} {inst : Byte} {len : Len} (h : s.AtWork p c q d) (hu : s.turn = p)
    (hd : decode (.d c.word) = .ok (.recvString pv inst len)) (hi : inst.toNat < s.config.nInst)
    (hdst : len.toNat ≤ c.dst.length) (hk : k + d = len.toNat) :
    (s.loopAt len k).Reaches d (s.Received p q c.dst inst.toNat k d) := by
  induction d generalizing s c k with
  | zero =>
    rw [State.loopAt_of_eq (by omega)]
    exact .of_self 0 (.of_ret h hu (h.lt_length hi) (Nat.zero_min _))
  | succ d ih =>
    have hlt : k < len.toNat := by omega
    have hkd : k < c.dst.length := by omega
    obtain ⟨u, hstep, hut, hwork, hconf, huarts, htrace⟩ := h.loopAt_step hu hd hlt
    rw [← hconf] at hi
    rw [exec_recvString_of_some hwork.ready (congrArg Command.progress (hwork.cmd_eq hut))] at hstep
    cases hdeq : (u.uart inst.toNat).rx.deq with
    | none =>
      rw [recvIteration_of_empty hlt hdeq] at hstep
      have hret := State.Received.of_ret (k := k) (d := d + 1) hwork hut (hwork.lt_length hi)
        (by rw [Buffer.deq_none.1 hdeq, Nat.min_zero])
      exact .of_step hstep (.of_self d (hret.of_congr huarts htrace))
    | some r =>
      obtain ⟨x, b⟩ := r
      rw [recvIteration_of_byte hlt hdeq, stringMoved_eq_loopAt] at hstep
      have hmoved := (hwork.setUart (Uart.evolves_rxDeq hdeq)).outWrite hut k x
      have hrest := ih hmoved ((State.outWrite_turn _ _ _).trans hut) hd ((State.outWrite_config _ _ _).symm ▸ hi)
        (by simpa using hdst) (k := k + 1) (by omega)
      have hwf := (hwork.inv.uart_wf hwork.ready _ hi).rx
      exact .of_step hstep (hrest.imp fun t ht =>
        (State.Received.of_deq (hwork.lt_length hi) hut hwf hkd hdeq ht).of_congr huarts htrace)

end Recv

/-! ### From the presented command to its return -/

section Presented

variable {s t : State} {p : Port} {c : Command} {q : List Command} {inst : Byte} {len : Len} {i : Nat}

/-- With valid arguments the first step of a string command enters the loop. -/
theorem State.AtWork.enters_loop {o : Instr} {op : Byte} {extent n : Nat} (h : s.AtWork p c q (n + 1))
    (hd : decode (.d c.word) = .ok o) (hi : inst.toNat < s.config.nInst) (he : len.toNat ≤ extent)
    (hentry : ∀ u : State, u.isReady = true → u.cmd = c → exec o u = stringEntry true inst len op extent u) :
    ∃ u, step s = .next (u.loopAt len 0) ∧ u.turn = p ∧ u.AtWork p c q n ∧ s.SameBlock u ∧ u.trace = s.trace := by
  obtain ⟨u, hstep, hut, hwork, hsame, htrace⟩ := h.step_eq hd
  rw [← hsame.config] at hi
  rw [hentry u hwork.ready (hwork.cmd_eq hut), stringEntry_eq_loopAt (State.badArgs_eq_false hi) he] at hstep
  exact ⟨u, hstep, hut, hwork, hsame, htrace⟩

/-- A SEND_STRING with valid arguments takes one step more than it has bytes, at most. -/
theorem sendString_reaches_of_presented (h : s.AtWork p c q (len.toNat + 1)) (hp : c.progress = none)
    (hd : decode (.d c.word) = .ok (.sendString true inst len)) (hi : inst.toNat < s.config.nInst)
    (hsrc : len.toNat ≤ c.src.length) :
    s.Reaches (len.toNat + 1) (s.Sent p q c.src c.dst inst.toNat 0 len.toNat) := by
  obtain ⟨u, hstep, hut, hwork, hsame, htrace⟩ := h.enters_loop hd hi hsrc fun u hr hc => by
    rw [exec_sendString_of_none hr (hc ▸ hp), hc]
  exact .of_step hstep ((sendString_reaches hwork hut hd (hsame.config ▸ hi) hsrc (Nat.zero_add _)).imp fun t ht =>
    ht.of_congr hsame.uarts htrace)

/-- A RECV_STRING with valid arguments takes one step more than it has bytes, at most. -/
theorem recvString_reaches_of_presented (h : s.AtWork p c q (len.toNat + 1)) (hp : c.progress = none)
    (hd : decode (.d c.word) = .ok (.recvString true inst len)) (hi : inst.toNat < s.config.nInst)
    (hdst : len.toNat ≤ c.dst.length) :
    s.Reaches (len.toNat + 1) (s.Received p q c.dst inst.toNat 0 len.toNat) := by
  obtain ⟨u, hstep, hut, hwork, hsame, htrace⟩ := h.enters_loop hd hi hdst fun u hr hc => by
    rw [exec_recvString_of_none hr (hc ▸ hp), hc]
  exact .of_step hstep ((recvString_reaches hwork hut hd (hsame.config ▸ hi) hdst (Nat.zero_add _)).imp fun t ht =>
    ht.of_congr hsame.uarts htrace)

/-- Where one instance has been replaced the others are as they were. -/
theorem State.uart_of_setUart {u : Uart} (hi : i < s.uarts.length) (h : t.uarts = (s.setUart i u).uarts) :
    t.uart i = u ∧ ∀ j, j ≠ i → t.uart j = s.uart j :=
  ⟨(State.uart_congr h i).trans (State.setUart_uart_same u hi),
    fun j hj => (State.uart_congr h j).trans (State.setUart_uart_other u hj.symm)⟩

end Presented

/-- Settles O34: the first step enters the loop, which enqueues until it is done or there is no room. -/
theorem uninterruptedSendString : Obligations.UninterruptedSendString := by
  unfold Obligations.UninterruptedSendString
  intro s p c q inst len rest hinv hr hh hq hp hd hi hsrc hs b m
  have h : s.AtWork p c q (len.toNat + 1) := ⟨hinv, hr, hh, hq, rest, hs⟩
  obtain ⟨n, t, hn, hrun, ⟨hqueue, htrace⟩, b', huarts, hcont⟩ := sendString_reaches_of_presented h hp hd hi hsrc
  obtain ⟨huart, hothers⟩ := State.uart_of_setUart (h.lt_length hi) huarts
  refine ⟨n, t, hn, hrun, hqueue, ?_, ?_, ⟨b', huart⟩, hothers⟩
  · rw [htrace, Nat.zero_add, List.append_nil]
    rfl
  · rw [huart]
    exact hcont

/-- Settles O35: the first step enters the loop, which dequeues until it is done or the buffer is empty. -/
theorem uninterruptedRecvString : Obligations.UninterruptedRecvString := by
  unfold Obligations.UninterruptedRecvString
  intro s p c q inst len rest hinv hr hh hq hp hd hi hdst hs b m
  have h : s.AtWork p c q (len.toNat + 1) := ⟨hinv, hr, hh, hq, rest, hs⟩
  obtain ⟨n, t, hn, hrun, ⟨hqueue, htrace⟩, b', huarts, hcont⟩ := recvString_reaches_of_presented h hp hd hi hdst
  obtain ⟨huart, hothers⟩ := State.uart_of_setUart (h.lt_length hi) huarts
  have hlen : (b.contents.take m).length = m := List.length_take_of_le (b.contents_length ▸ Nat.min_le_right _ _)
  have hdelivered : delivered c.dst 0 (b.contents.take m) = b.contents.take m ++ c.dst.drop m := by
    rw [delivered, hlen, List.take_zero, List.nil_append, Nat.zero_add]
  refine ⟨n, t, hn, hrun, hqueue, ?_, ?_, ⟨b', huart⟩, hothers⟩
  · rw [htrace, Nat.zero_add, ← hdelivered]
    rfl
  · rw [huart]
    exact hcont

end Sys2Proof.Machine

/-! The record of an error report on the report port (spec/60_exceptions.md R211, R213). -/

namespace Sys2Proof.Machine

/-- The report word holds its four fields where spec/60_exceptions.md R213 says. -/
theorem reportWord_fields (r : Report) :
    (reportWord r).extractLsb' 24 8 = r.moduleId ∧ (reportWord r).extractLsb' 16 8 = r.instanceId ∧
    (reportWord r).extractLsb' 8 8 = r.operationId ∧ (reportWord r).extractLsb' 0 8 = kindCode r.kind := by
  have above {n start : Nat} (hi : BitVec n) (lo : Byte) (h : 8 ≤ start) :
      (hi ++ lo).extractLsb' start 8 = hi.extractLsb' (start - 8) 8 := BitVec.extractLsb'_append_eq_of_le h
  have lowest {n : Nat} (hi : BitVec n) (lo : Byte) : (hi ++ lo).extractLsb' 0 8 = lo :=
    BitVec.extractLsb'_append_eq_right
  refine ⟨?_, ?_, ?_, lowest _ _⟩
  · exact (above _ _ (by decide)).trans ((above _ _ (by decide)).trans BitVec.extractLsb'_append_eq_left)
  · exact (above _ _ (by decide)).trans ((above _ _ (by decide)).trans (lowest _ _))
  · exact (above _ _ (by decide)).trans (lowest _ _)

/-- Settles O37: each field is read past the bytes below it; the codes and the examples are evaluated. -/
theorem reportWordFields : Obligations.ReportWordFields := by
  unfold Obligations.ReportWordFields
  exact ⟨reportWord_fields, by decide⟩

end Sys2Proof.Machine

/-! A command means the same on either driver port: every operation commutes with exchanging the ports
(spec/00_scope.md R16, spec/60_exceptions.md R218). -/

namespace Sys2Proof.Machine

/-- An outcome with the driver ports exchanged in the next state. -/
def swapOutcome : Host.Outcome State Fault Refusal → Host.Outcome State Fault Refusal
  | .next t => .next t.swapPorts
  | .fault r => .fault r
  | .refused r => .refused r

@[simp] theorem swapOutcome_next (t : State) : swapOutcome (.next t) = .next t.swapPorts := rfl
@[simp] theorem swapOutcome_refused (r : Refusal) : swapOutcome (.refused r) = .refused r := rfl

section Swap

variable (s : State)

/-! ### What a state with the ports exchanged shows -/

@[simp] theorem State.swapPorts_config : s.swapPorts.config = s.config := rfl
@[simp] theorem State.swapPorts_turn : s.swapPorts.turn = s.turn.other := rfl
@[simp] theorem State.swapPorts_halted : s.swapPorts.halted = s.halted := rfl
@[simp] theorem State.swapPorts_fifo : s.swapPorts.fifo = s.fifo := rfl
@[simp] theorem State.swapPorts_isReady : s.swapPorts.isReady = s.isReady := rfl
@[simp] theorem State.swapPorts_uart (i : Nat) : s.swapPorts.uart i = s.uart i := rfl
@[simp] theorem State.swapPorts_answer : s.swapPorts.answer = s.answer := rfl
@[simp] theorem State.swapPorts_badInst (inst : Byte) : s.swapPorts.badInst inst = s.badInst inst := rfl
@[simp] theorem State.swapPorts_badArgs (pv : Bool) (inst : Byte) : s.swapPorts.badArgs pv inst = s.badArgs pv inst := rfl

@[simp] theorem State.swapPorts_queue (p : Port) : s.swapPorts.queue p.other = s.queue p := by cases p <;> rfl

/-- The running command is the same one, on the other port. -/
@[simp] theorem State.swapPorts_cmd : s.swapPorts.cmd = s.cmd := by
  rw [State.cmd, State.cmd, State.swapPorts_turn, State.swapPorts_queue]

/-! ### The shared operations with the ports exchanged -/

@[simp] theorem State.emit_swapPorts (e : Event) : (s.emit e).swapPorts = s.swapPorts.emit e.swap := by
  simp [State.swapPorts, State.emit]

@[simp] theorem State.setQueue_swapPorts (p : Port) (q : List Command) :
    (s.setQueue p q).swapPorts = s.swapPorts.setQueue p.other q := by cases p <;> rfl

@[simp] theorem State.setCmd_swapPorts (c : Command) : (s.setCmd c).swapPorts = s.swapPorts.setCmd c := by
  cases hq : s.queue s.turn with
  | nil => simp [State.setCmd, hq]
  | cons d q => simp [State.setCmd, hq]

@[simp] theorem State.setUart_swapPorts (i : Nat) (u : Uart) : (s.setUart i u).swapPorts = s.swapPorts.setUart i u := rfl

@[simp] theorem State.setTx_swapPorts (i : Nat) (b : Buffer) : (s.setTx i b).swapPorts = s.swapPorts.setTx i b := rfl

@[simp] theorem State.setRx_swapPorts (i : Nat) (b : Buffer) : (s.setRx i b).swapPorts = s.swapPorts.setRx i b := rfl

@[simp] theorem State.pushRx_swapPorts (i : Nat) (b : Buffer) (d : Byte) :
    (s.pushRx i b d).swapPorts = s.swapPorts.pushRx i b d := rfl

@[simp] theorem State.setFifoBuf_swapPorts (b : Buffer) : (s.setFifoBuf b).swapPorts = s.swapPorts.setFifoBuf b := rfl

@[simp] theorem State.takeAnswer_swapPorts : s.takeAnswer.swapPorts = s.swapPorts.takeAnswer := by
  rw [State.takeAnswer_eq, State.takeAnswer_eq]
  rfl

@[simp] theorem State.regRead_swapPorts (i : Nat) (r : Reg) : (s.regRead i r).swapPorts = s.swapPorts.regRead i r := by
  simp [State.regRead, Event.swap]

@[simp] theorem State.regWrite_swapPorts (i : Nat) (r : Reg) (v : Byte) :
    (s.regWrite i r v).swapPorts = s.swapPorts.regWrite i r v := State.emit_swapPorts _ _

@[simp] theorem State.report_swapPorts (k : ErrorKind) (inst op : Byte) :
    (s.report k inst op).swapPorts = s.swapPorts.report k inst op := State.emit_swapPorts _ _

@[simp] theorem State.fifoOutWrite_swapPorts (b : Byte) : (s.fifoOutWrite b).swapPorts = s.swapPorts.fifoOutWrite b :=
  State.emit_swapPorts _ _

@[simp] theorem State.fifoRet_swapPorts (r : Result) : (s.fifoRet r).swapPorts = s.swapPorts.fifoRet r :=
  State.emit_swapPorts _ _

@[simp] theorem State.outWrite_swapPorts (k : Nat) (b : Byte) : (s.outWrite k b).swapPorts = s.swapPorts.outWrite k b := by
  simp [State.outWrite, Event.swap]

@[simp] theorem State.ret_swapPorts (r : Result) : (s.ret r).swapPorts = s.swapPorts.ret r := by
  simp [State.ret, Event.swap]

@[simp] theorem State.advance_swapPorts (k : Nat) : (s.advance k).swapPorts = s.swapPorts.advance k := by
  simp [State.advance]

/-- What follows a report commutes with the exchange, whether or not the reporter returns. -/
theorem State.resume_swapPorts {f : State → State} (hf : ∀ s : State, (f s).swapPorts = f s.swapPorts) :
    (s.resume f).swapPorts = s.swapPorts.resume f := by
  rcases State.resume_cases s f with ⟨h, hk⟩ | ⟨⟨r, h⟩, hk⟩
  · rw [hk, hf, State.resume_running (s := s.swapPorts) f h]
  · rw [hk, State.resume_halted (s := s.swapPorts) f h]

@[simp] theorem State.paramError_swapPorts (inst op : Byte) (r : Result) :
    (s.paramError inst op r).swapPorts = s.swapPorts.paramError inst op r := by
  rw [State.paramError, State.resume_swapPorts _ fun s => s.ret_swapPorts r, State.report_swapPorts]
  rfl

/-! ### The parts of the commands -/

@[simp] theorem stringMoved_swapPorts (len : Len) (k : Nat) :
    (stringMoved len k s).swapPorts = stringMoved len k s.swapPorts := by
  unfold stringMoved
  split <;> simp

@[simp] theorem sendDequeued_swapPorts (inst x : Byte) :
    (sendDequeued s inst x).swapPorts = sendDequeued s.swapPorts inst x := by
  unfold sendDequeued
  rw [State.swapPorts_config, State.swapPorts_answer]
  split
  · simp
  · rw [State.resume_swapPorts _ fun s => s.ret_swapPorts _, State.report_swapPorts, State.regRead_swapPorts]

theorem reportIf_swapPorts (flag : Bool) (k : ErrorKind) (inst : Byte) :
    (reportIf flag k inst s).swapPorts = reportIf flag k inst s.swapPorts := by cases flag <;> simp [reportIf]

theorem lineReports_swapPorts (v inst : Byte) : (lineReports v inst s).swapPorts = lineReports v inst s.swapPorts := by
  unfold lineReports
  rw [State.resume_swapPorts _ (reportIf_swapPorts · _ _ _), State.resume_swapPorts _ (reportIf_swapPorts · _ _ _),
    reportIf_swapPorts, State.swapPorts_config]

theorem receiveData_swapPorts (err : Bool) (inst : Byte) :
    (receiveData err inst s).swapPorts = receiveData err inst s.swapPorts := by
  unfold receiveData
  simp only [← State.regRead_swapPorts, State.swapPorts_answer, State.swapPorts_uart]
  split
  · simp
  · split <;> simp

@[simp] theorem receiveSnapshot_swapPorts (inst : Byte) :
    (receiveSnapshot s inst).swapPorts = receiveSnapshot s.swapPorts inst := by
  unfold receiveSnapshot
  rw [State.swapPorts_answer, State.swapPorts_config]
  simp only
  split
  · rw [State.resume_swapPorts _ (receiveData_swapPorts · _ _), lineReports_swapPorts, State.regRead_swapPorts]
  · simp

@[simp] theorem initRecord_swapPorts (r : CfgRecord) : (initRecord s r).swapPorts = initRecord s.swapPorts r := by
  simp [initRecord]

@[simp] theorem foldl_initRecord_swapPorts (l : List CfgRecord) :
    (l.foldl initRecord s).swapPorts = l.foldl initRecord s.swapPorts :=
  (List.foldl_hom State.swapPorts fun s r => (initRecord_swapPorts s r).symm).symm

/-! ### The commands -/

theorem State.whenReady_swapPorts {run : State → Host.Outcome State Fault Refusal}
    (h : ∀ s : State, run s.swapPorts = swapOutcome (run s)) :
    s.swapPorts.whenReady run = swapOutcome (s.whenReady run) := by
  unfold State.whenReady
  rw [State.swapPorts_isReady]
  split
  · exact h s
  · rfl

theorem execCbEnq_swapPorts (byte : Byte) : execCbEnq byte s.swapPorts = swapOutcome (execCbEnq byte s) := by
  unfold execCbEnq
  rw [State.swapPorts_fifo]
  split <;> simp

theorem execCbDeq_swapPorts : execCbDeq s.swapPorts = swapOutcome (execCbDeq s) := by
  unfold execCbDeq
  rw [State.swapPorts_fifo]
  split <;> simp

theorem execCbPeekLast_swapPorts : execCbPeekLast s.swapPorts = swapOutcome (execCbPeekLast s) := by
  unfold execCbPeekLast
  rw [State.swapPorts_fifo]
  split <;> simp

theorem execInit_swapPorts (pv : Bool) : execInit pv s.swapPorts = swapOutcome (execInit pv s) := by
  cases pv <;> simp [execInit]

theorem execSendUpdate_swapPorts (inst : Byte) :
    execSendUpdate inst s.swapPorts = swapOutcome (execSendUpdate inst s) := by
  refine s.whenReady_swapPorts fun s => ?_
  rw [State.swapPorts_badInst, State.swapPorts_uart]
  split
  · simp
  · split <;> simp

theorem execRecvUpdate_swapPorts (inst : Byte) :
    execRecvUpdate inst s.swapPorts = swapOutcome (execRecvUpdate inst s) := by
  refine s.whenReady_swapPorts fun s => ?_
  rw [State.swapPorts_badInst]
  split <;> simp

theorem execSendByte_swapPorts (inst byte : Byte) :
    execSendByte inst byte s.swapPorts = swapOutcome (execSendByte inst byte s) := by
  refine s.whenReady_swapPorts fun s => ?_
  rw [State.swapPorts_badInst, State.swapPorts_uart]
  split
  · simp
  · split <;> simp

theorem execRecvByte_swapPorts (pv : Bool) (inst : Byte) :
    execRecvByte pv inst s.swapPorts = swapOutcome (execRecvByte pv inst s) := by
  refine s.whenReady_swapPorts fun s => ?_
  rw [State.swapPorts_badArgs, State.swapPorts_cmd, State.swapPorts_uart]
  split
  · simp
  · split
    · rfl
    · split <;> simp

theorem execPeekLastByte_swapPorts (pv : Bool) (inst : Byte) :
    execPeekLastByte pv inst s.swapPorts = swapOutcome (execPeekLastByte pv inst s) := by
  refine s.whenReady_swapPorts fun s => ?_
  rw [State.swapPorts_badArgs, State.swapPorts_cmd, State.swapPorts_uart]
  split
  · simp
  · split
    · rfl
    · split <;> simp

theorem stringEntry_swapPorts (pv : Bool) (inst : Byte) (len : Len) (op : Byte) (extent : Nat) :
    stringEntry pv inst len op extent s.swapPorts = swapOutcome (stringEntry pv inst len op extent s) := by
  unfold stringEntry
  rw [State.swapPorts_badArgs]
  split
  · simp
  · split
    · simp
    · split <;> simp

theorem sendIteration_swapPorts (inst : Byte) (len : Len) (k : Nat) :
    sendIteration inst len k s.swapPorts = swapOutcome (sendIteration inst len k s) := by
  unfold sendIteration
  rw [State.swapPorts_cmd, State.swapPorts_uart]
  split
  · split
    · rfl
    · split <;> simp
  · simp

theorem recvIteration_swapPorts (inst : Byte) (len : Len) (k : Nat) :
    recvIteration inst len k s.swapPorts = swapOutcome (recvIteration inst len k s) := by
  unfold recvIteration
  rw [State.swapPorts_uart]
  split
  · split <;> simp
  · simp

theorem execSendString_swapPorts (pv : Bool) (inst : Byte) (len : Len) :
    execSendString pv inst len s.swapPorts = swapOutcome (execSendString pv inst len s) := by
  refine s.whenReady_swapPorts fun s => ?_
  rw [State.swapPorts_cmd]
  split
  · exact stringEntry_swapPorts _ _ _ _ _ _
  · exact sendIteration_swapPorts _ _ _ _

theorem execRecvString_swapPorts (pv : Bool) (inst : Byte) (len : Len) :
    execRecvString pv inst len s.swapPorts = swapOutcome (execRecvString pv inst len s) := by
  refine s.whenReady_swapPorts fun s => ?_
  rw [State.swapPorts_cmd]
  split
  · exact stringEntry_swapPorts _ _ _ _ _ _
  · exact recvIteration_swapPorts _ _ _ _

end Swap

/-- Every operation commutes with exchanging the ports. -/
theorem exec_swapPorts (i : Instr) (s : State) : exec i s.swapPorts = swapOutcome (exec i s) := by
  cases i with
  | cbCreate => simp [exec, execCbCreate]
  | cbEnq _ => exact execCbEnq_swapPorts s _
  | cbDeq => exact execCbDeq_swapPorts s
  | cbPeekLast => exact execCbPeekLast_swapPorts s
  | init _ => exact execInit_swapPorts s _
  | sendUpdate _ => exact execSendUpdate_swapPorts s _
  | recvUpdate _ => exact execRecvUpdate_swapPorts s _
  | sendByte _ _ => exact execSendByte_swapPorts s _ _
  | recvByte _ _ => exact execRecvByte_swapPorts s _ _
  | sendString _ _ _ => exact execSendString_swapPorts s _ _ _
  | recvString _ _ _ => exact execRecvString_swapPorts s _ _ _
  | peekLastByte _ _ => exact execPeekLastByte_swapPorts s _ _

/-- Settles O47: an operation takes the same branches with the ports exchanged, and its shared operations commute with the
exchange. -/
theorem portsAreInterchangeable : Obligations.PortsAreInterchangeable := by
  unfold Obligations.PortsAreInterchangeable
  intro i s
  rw [exec_swapPorts]
  cases exec i s <;> rfl

end Sys2Proof.Machine

/-! The error reports of a command: which it makes, and that it stops at one the reporter does not return from
(spec/60_exceptions.md R210, R212, R215, R216). -/

namespace Sys2Proof.Machine

/-! ### The reports of a trace -/

theorem mem_reportsOf {l : List Event} {r : Report} : r ∈ reportsOf l ↔ .report r ∈ l := by
  rw [reportsOf, List.mem_filterMap]
  constructor
  · rintro ⟨e, he, hr⟩
    cases e with
    | report r' => cases hr; exact he
    | regRead _ _ _ | regWrite _ _ _ | outWrite _ _ _ | ret _ _ _ | fifoOut _ _ | fifoRet _ => cases hr
  · exact fun h => ⟨_, h, rfl⟩

@[simp] theorem reportsOf_append (l l' : List Event) : reportsOf (l ++ l') = reportsOf l ++ reportsOf l' :=
  List.filterMap_append

@[simp] theorem reportsOf_map_report {α : Type} (f : α → Report) (l : List α) :
    reportsOf (l.map fun a => .report (f a)) = l.map f := by
  rw [reportsOf, List.filterMap_map]
  exact congrFun List.filterMap_eq_map l

/-- A register read is no report. -/
@[simp] theorem reportsOf_regRead (i : Nat) (r : Reg) (v : Byte) : reportsOf [.regRead i r v] = [] := rfl

theorem State.Shows.mem_reports {s t : State} {es : List Event} {r : Report} (h : s.Shows es t) :
    .report r ∈ newEvents s t ↔ r ∈ reportsOf es := by rw [← mem_reportsOf, h.reports]

/-! ### What makes no report -/

/-- From `s` to `t` no report is made, so the block is stopped in `t` only if it was in `s`. -/
structure State.Silent (s t : State) : Prop where
  halted : t.halted = s.halted
  shown  : ∃ es, s.Shows es t ∧ reportsOf es = []

theorem State.Silent.trans {s t u : State} (h : s.Silent t) (k : t.Silent u) : s.Silent u := by
  obtain ⟨es, hes, hr⟩ := h.shown
  obtain ⟨es', hes', hr'⟩ := k.shown
  exact ⟨k.halted.trans h.halted, _, hes.trans hes', by simp [hr, hr']⟩

theorem State.Silent.no_report {s t : State} (h : s.Silent t) (r : Report) : .report r ∉ newEvents s t := by
  obtain ⟨es, hes, hnone⟩ := h.shown
  rw [hes.mem_reports, hnone]
  exact List.not_mem_nil

section Silent

variable (s : State)

theorem State.silent_setUart (i : Nat) (u : Uart) : s.Silent (s.setUart i u) := ⟨rfl, _, s.shows_setUart i u, rfl⟩

theorem State.silent_outWrite (k : Nat) (b : Byte) : s.Silent (s.outWrite k b) :=
  ⟨s.outWrite_halted k b, _, s.shows_outWrite k b, rfl⟩

theorem State.silent_regRead (i : Nat) (r : Reg) : s.Silent (s.regRead i r) :=
  ⟨s.regRead_halted i r, _, s.shows_regRead i r, rfl⟩

theorem State.silent_ret (r : Result) : s.Silent (s.ret r) := ⟨s.ret_halted r, _, s.shows_ret r, rfl⟩

theorem State.silent_advance (k : Nat) : s.Silent (s.advance k) := ⟨s.advance_halted k, _, s.shows_advance k, rfl⟩

theorem stringMoved_silent (len : Len) (k : Nat) : s.Silent (stringMoved len k s) := by
  rcases stringMoved_cases len k s with ⟨-, h⟩ | ⟨-, h⟩
  · exact h ▸ s.silent_advance _
  · exact h ▸ s.silent_ret _

theorem receiveData_silent (err : Bool) (inst : Byte) : s.Silent (receiveData err inst s) :=
  ⟨receiveData_halted err inst s, _, receiveData_shows err inst s, rfl⟩

/-- The work of INIT for the records makes register writes only. -/
theorem foldl_initRecord_silent (l : List CfgRecord) : s.Silent (l.foldl initRecord s) := by
  refine ⟨?_, _, foldl_initRecord_shows l s, ?_⟩
  · obtain ⟨us, m, tr, h⟩ := foldl_initRecord_frame l s
    rw [h]
  · induction l with
    | nil => rfl
    | cons r l ih => rw [List.flatMap_cons, reportsOf_append, ih]; rfl

end Silent

/-! ### The reporter's return -/

/-- From `s` to `t` the reporter has returned from every report, and the block runs. -/
structure State.Unhalted (s t : State) : Prop where
  halted : t.halted = none
  shown  : ∃ es, s.Shows es t ∧ ∀ r ∈ reportsOf es, r ∉ s.config.halts

/-- From `s` to `t` the reporter has returned from every report, and the command has neither returned nor written output. -/
structure State.Underway (s t : State) : Prop extends s.Unhalted t where
  config : t.config = s.config
  queue  : ∀ p, t.queue p = s.queue p
  fifo   : t.fifo = s.fifo

/-- From `s` to `t` the reporter has returned from every report but the last event, `r`; the command has not returned. -/
structure State.HaltedBy (s : State) (r : Report) (t : State) : Prop where
  halted : t.halted = some r
  halts  : r ∈ s.config.halts
  shown  : ∃ es, s.Shows (es ++ [.report r]) t ∧ ∀ r' ∈ reportsOf es, r' ∉ s.config.halts
  last   : t.trace.getLast? = some (.report r)
  queue  : ∀ p, t.queue p = s.queue p
  fifo   : t.fifo = s.fifo

section Return

variable {s t u : State}

theorem State.Unhalted.next (h : s.Unhalted t) (k : t.Silent u) : s.Unhalted u := by
  obtain ⟨es, hes, hr⟩ := h.shown
  obtain ⟨es', hes', hr'⟩ := k.shown
  exact ⟨k.halted.trans h.halted, _, hes.trans hes', by simpa [hr'] using hr⟩

theorem State.Underway.refl (hs : s.halted = none) : s.Underway s :=
  ⟨⟨hs, [], .refl s, fun _ h => absurd h List.not_mem_nil⟩, rfl, fun _ => rfl, rfl⟩

theorem State.Underway.setUart (h : s.Underway t) (i : Nat) (v : Uart) : s.Underway (t.setUart i v) :=
  ⟨h.toUnhalted.next (t.silent_setUart i v), h.config, fun p => (t.setUart_queue i v p).trans (h.queue p), h.fifo⟩

theorem State.Underway.regRead (h : s.Underway t) (i : Nat) (r : Reg) : s.Underway (t.regRead i r) :=
  ⟨h.toUnhalted.next (t.silent_regRead i r), (t.regRead_config i r).trans h.config,
    fun p => (t.regRead_queue i r p).trans (h.queue p), (t.regRead_fifo i r).trans h.fifo⟩

/-- A report is one the reporter returns from, or it stops the block (spec/60_exceptions.md R215). -/
theorem State.Underway.report (h : s.Underway t) (k : ErrorKind) (inst op : Byte) :
    s.Underway (t.report k inst op) ∨ ∃ r, s.HaltedBy r (t.report k inst op) := by
  obtain ⟨es, hes, hr⟩ := h.shown
  have hshows := hes.trans (t.shows_report k inst op)
  have hqueue (p : Port) := (t.report_queue k inst op p).trans (h.queue p)
  by_cases hmem : t.reportOf k inst op ∈ t.config.halts
  · exact .inr ⟨_, by simp [hmem], h.config ▸ hmem, ⟨es, hshows, hr⟩, by simp, hqueue, h.fifo⟩
  · refine .inl ⟨⟨(State.report_halted_of_not_mem hmem).trans h.halted, _, hshows, ?_⟩, h.config, hqueue, h.fifo⟩
    rw [h.config] at hmem
    intro r hmade
    rcases List.mem_append.1 (reportsOf_append _ _ ▸ hmade) with hold | hnew
    · exact hr r hold
    · exact List.mem_singleton.1 hnew ▸ hmem

/-- The command goes on after a report, or stays where the block has stopped. -/
theorem State.Underway.resume {f : State → State} {P : State → Prop}
    (h : s.Underway t ∨ ∃ r, s.HaltedBy r t) (hf : s.Underway t → P (f t)) (hstop : ∀ r, s.HaltedBy r t → P t) :
    P (t.resume f) := by
  rcases h with h | ⟨r, h⟩
  · rw [State.resume_running f h.halted]; exact hf h
  · rw [State.resume_halted f h.halted]; exact hstop r h

/-- Where a command makes no report after the one it waits for, it has only made reports it returned from or has stopped. -/
theorem State.Underway.resume_silent {f : State → State} (h : s.Underway t ∨ ∃ r, s.HaltedBy r t)
    (hf : ∀ t, State.Silent t (f t)) : s.Unhalted (t.resume f) ∨ ∃ r, s.HaltedBy r (t.resume f) :=
  State.Underway.resume (P := fun t => s.Unhalted t ∨ ∃ r, s.HaltedBy r t) h (fun h => .inl (h.toUnhalted.next (hf t)))
    fun r h => .inr ⟨r, h⟩

theorem State.paramError_halts (hs : s.halted = none) (inst op : Byte) (r : Result) :
    s.Unhalted (s.paramError inst op r) ∨ ∃ q, s.HaltedBy q (s.paramError inst op r) :=
  State.Underway.resume_silent ((State.Underway.refl hs).report _ _ _) fun t => t.silent_ret r

theorem State.Underway.reportIf (h : s.Underway t) (flag : Bool) (k : ErrorKind) (inst : Byte) :
    s.Underway (reportIf flag k inst t) ∨ ∃ r, s.HaltedBy r (reportIf flag k inst t) := by
  cases flag
  · exact .inl h
  · exact h.report k inst opRecvUpdate

theorem State.Underway.lineReports (h : s.Underway t) (v inst : Byte) :
    s.Underway (lineReports v inst t) ∨ ∃ r, s.HaltedBy r (lineReports v inst t) := by
  have go {w : State} (hw : s.Underway w ∨ ∃ r, s.HaltedBy r w) (flag : Bool) (k : ErrorKind) :=
    State.Underway.resume (P := fun t => s.Underway t ∨ ∃ r, s.HaltedBy r t) hw (·.reportIf flag k inst)
      fun r h => .inr ⟨r, h⟩
  exact go (go (h.reportIf _ _ _) _ _) _ _

end Return

/-! ### Which reports a command makes -/

/-- The reports from `s` to `t` are the command's own on a status snapshot, none of them an `E_PARAM`; a stopped block has
stopped at the last of them. -/
structure State.ReportsStatus (i : Instr) (s t : State) : Prop where
  shown : ∃ es, s.Shows es t ∧ ∀ r ∈ reportsOf es, ∃ o, ∃ k ∈ o.kinds, reportOrigin i = some o ∧ k ≠ .param ∧
    r = s.reportOf k o.instanceId o.operationId
  halts : s.halted = none → s.Unhalted t ∨ ∃ r, s.HaltedBy r t

/-- All that a command reports: an `E_PARAM` and no more, what it saw in a status snapshot, or nothing. -/
inductive Reporting (i : Instr) (s t : State) : Prop
  | param (o : Origin) (r : Result) (ho : reportOrigin i = some o) (ht : t = s.paramError o.instanceId o.operationId r)
  | status (h : s.ReportsStatus i t)
  | silent (h : s.Silent t)

section Commands

variable {s t : State} {pv : Bool} {inst byte : Byte} {len : Len}

theorem execInit_reporting (h : execInit pv s = .next t) : Reporting (.init pv) s t := by
  cases pv <;> cases h
  · exact .param _ _ rfl rfl
  · exact .silent ((foldl_initRecord_silent s _).trans (State.silent_ret _ _))

theorem execCbCreate_silent (h : execCbCreate s = .next t) : s.Silent t := by
  cases h
  exact ⟨rfl, _, (s.shows_setFifoBuf _).trans (State.shows_fifoRet _ _), rfl⟩

theorem execCbEnq_silent (h : execCbEnq byte s = .next t) : s.Silent t := by
  refine ⟨?_, _, execCbEnq_shows h, rfl⟩
  unfold execCbEnq at h
  split at h <;> cases h <;> rfl

theorem execCbDeq_silent (h : execCbDeq s = .next t) : s.Silent t := by
  refine ⟨?_, _, execCbDeq_shows h, rfl⟩
  unfold execCbDeq at h
  split at h <;> cases h <;> rfl

theorem execCbPeekLast_silent (h : execCbPeekLast s = .next t) : s.Silent t := by
  refine ⟨?_, _, execCbPeekLast_shows h, rfl⟩
  unfold execCbPeekLast at h
  split at h <;> cases h <;> rfl

theorem execSendByte_reporting (h : execSendByte inst byte s = .next t) : Reporting (.sendByte inst byte) s t := by
  obtain ⟨-, h⟩ := State.whenReady_next h
  split at h
  · cases h; exact .param _ _ rfl rfl
  · split at h
    · cases h; exact .silent (s.silent_ret _)
    · cases h; exact .silent ((s.silent_setUart _ _).trans (State.silent_ret _ _))

theorem execRecvByte_reporting (h : execRecvByte pv inst s = .next t) : Reporting (.recvByte pv inst) s t := by
  obtain ⟨-, h⟩ := State.whenReady_next h
  split at h
  · cases h; exact .param _ _ rfl rfl
  · split at h
    · cases h
    · split at h
      · cases h; exact .silent (s.silent_ret _)
      · cases h
        exact .silent (((s.silent_setUart _ _).trans (State.silent_outWrite _ _ _)).trans (State.silent_ret _ _))

theorem execPeekLastByte_reporting (h : execPeekLastByte pv inst s = .next t) :
    Reporting (.peekLastByte pv inst) s t := by
  obtain ⟨-, h⟩ := State.whenReady_next h
  split at h
  · cases h; exact .param _ _ rfl rfl
  · split at h
    · cases h
    · split at h
      · cases h; exact .silent (s.silent_ret _)
      · cases h; exact .silent ((s.silent_outWrite _ _).trans (State.silent_ret _ _))

/-- The first step of a string command makes its `E_PARAM` or no report. -/
theorem stringEntry_reporting {i : Instr} {o : Origin} {extent : Nat} (ho : reportOrigin i = some o)
    (h : stringEntry pv o.instanceId len o.operationId extent s = .next t) : Reporting i s t := by
  rcases stringEntry_next h with ⟨-, rfl⟩ | ⟨-, -, rfl⟩ | ⟨-, -, -, rfl⟩
  · exact .silent (s.silent_ret _)
  · exact .param _ _ ho rfl
  · exact .silent (s.silent_advance _)

theorem execSendString_reporting (h : execSendString pv inst len s = .next t) :
    Reporting (.sendString pv inst len) s t := by
  obtain ⟨-, h⟩ := State.whenReady_next h
  split at h
  · exact stringEntry_reporting rfl h
  · rcases sendIteration_next h with rfl | ⟨_, _, -, -, -, rfl⟩
    · exact .silent (s.silent_ret _)
    · exact .silent ((s.silent_setUart _ _).trans (stringMoved_silent _ _ _))

theorem execRecvString_reporting (h : execRecvString pv inst len s = .next t) :
    Reporting (.recvString pv inst len) s t := by
  obtain ⟨-, h⟩ := State.whenReady_next h
  split at h
  · exact stringEntry_reporting rfl h
  · rcases recvIteration_next h with rfl | ⟨_, _, -, -, rfl⟩
    · exact .silent (s.silent_ret _)
    · exact .silent (((s.silent_setUart _ _).trans (State.silent_outWrite _ _ _)).trans (stringMoved_silent _ _ _))

/-- With a byte dequeued SEND_UPDATE reports `E_TB_NEMPTY` where `TXE` is clear. -/
theorem sendDequeued_reporting (s : State) (inst x : Byte) (b : Buffer) :
    Reporting (.sendUpdate inst) s (sendDequeued (s.setTx inst.toNat b) inst x) := by
  have hshows := (s.shows_setUart inst.toNat { s.uart inst.toNat with tx := b }).trans
    (sendDequeued_shows (s.setTx inst.toNat b) inst x)
  rw [State.setTx_config, State.setTx_answer] at hshows
  cases htxe : txe s.config s.answer with
  | true => exact .silent ⟨by simp [sendDequeued, htxe], _, hshows, by simp [htxe, reportsOf]⟩
  | false =>
    refine .status ⟨⟨_, hshows, fun r hr => ?_⟩, fun hs => ?_⟩
    · simp only [htxe, reportsOf] at hr
      obtain rfl := List.mem_singleton.1 hr
      exact ⟨_, .tbNempty, List.mem_cons_of_mem _ List.mem_cons_self, rfl, by decide, rfl⟩
    · have hread := ((State.Underway.refl hs).setUart inst.toNat { s.uart inst.toNat with tx := b }).regRead
        inst.toNat .status
      rw [sendDequeued, State.setTx_config, State.setTx_answer, htxe]
      exact State.Underway.resume_silent (hread.report _ _ _) fun t => t.silent_ret _

theorem execSendUpdate_reporting (h : execSendUpdate inst s = .next t) : Reporting (.sendUpdate inst) s t := by
  obtain ⟨-, h⟩ := State.whenReady_next h
  split at h
  · cases h; exact .param _ _ rfl rfl
  · split at h
    · cases h; exact .silent (s.silent_ret _)
    · cases h; exact sendDequeued_reporting _ _ _ _

/-- With `RXC` set RECV_UPDATE makes a report for each line error until the reporter does not return. -/
theorem receiveSnapshot_reporting (s : State) (inst : Byte) : Reporting (.recvUpdate inst) s (receiveSnapshot s inst) := by
  cases hrxc : rxc s.config s.answer with
  | false =>
    rw [receiveSnapshot_of_not_rxc hrxc]
    exact .silent ((s.silent_regRead _ _).trans (State.silent_ret _ _))
  | true =>
    rw [receiveSnapshot_of_rxc hrxc]
    refine .status ⟨?_, fun hs => ?_⟩
    · obtain ⟨-, made, hmade, hlines⟩ := lineReports_showsLines s.answer inst (s.regRead inst.toNat .status)
      have hreportOf (k : ErrorKind) : (s.regRead inst.toNat .status).reportOf k inst opRecvUpdate =
          s.reportOf k inst opRecvUpdate := by simp [State.reportOf]
      simp only [hreportOf] at hlines
      have hshows := (s.shows_regRead inst.toNat .status).trans hlines
      have horigin : ∀ r ∈ made.map (s.reportOf · inst opRecvUpdate), ∃ o, ∃ k ∈ o.kinds,
          reportOrigin (.recvUpdate inst) = some o ∧ k ≠ .param ∧ r = s.reportOf k o.instanceId o.operationId := by
        intro r hr
        obtain ⟨k, hk, rfl⟩ := List.mem_map.1 hr
        have hkind := hmade.subset hk
        exact ⟨_, k, List.mem_cons_of_mem _ hkind, rfl, fun hp => by subst hp; simp at hkind, rfl⟩
      rcases State.resume_cases (lineReports s.answer inst (s.regRead inst.toNat .status))
        (receiveData (lineError s.config s.answer) inst) with ⟨-, hk⟩ | ⟨-, hk⟩
      · rw [hk]
        refine ⟨_, hshows.trans (receiveData_shows _ _ _), ?_⟩
        simpa only [reportsOf_append, reportsOf_map_report, reportsOf_regRead, List.nil_append, List.append_nil]
      · rw [hk]
        refine ⟨_, hshows, ?_⟩
        simpa only [reportsOf_append, reportsOf_map_report, reportsOf_regRead, List.nil_append]
    · have hread := (State.Underway.refl hs).regRead inst.toNat .status
      exact State.Underway.resume_silent (hread.lineReports _ _) fun t => receiveData_silent t _ _

theorem execRecvUpdate_reporting (h : execRecvUpdate inst s = .next t) : Reporting (.recvUpdate inst) s t := by
  obtain ⟨-, h⟩ := State.whenReady_next h
  split at h
  · cases h; exact .param _ _ rfl rfl
  · cases h; exact receiveSnapshot_reporting _ _

end Commands

/-- All the reports an operation can make when it answers a next state. -/
theorem exec_reporting {i : Instr} {s t : State} (h : exec i s = .next t) : Reporting i s t := by
  cases i with
  | cbCreate => exact .silent (execCbCreate_silent h)
  | cbEnq _ => exact .silent (execCbEnq_silent h)
  | cbDeq => exact .silent (execCbDeq_silent h)
  | cbPeekLast => exact .silent (execCbPeekLast_silent h)
  | init _ => exact execInit_reporting h
  | sendUpdate _ => exact execSendUpdate_reporting h
  | recvUpdate _ => exact execRecvUpdate_reporting h
  | sendByte _ _ => exact execSendByte_reporting h
  | recvByte _ _ => exact execRecvByte_reporting h
  | sendString _ _ _ => exact execSendString_reporting h
  | recvString _ _ _ => exact execRecvString_reporting h
  | peekLastByte _ _ => exact execPeekLastByte_reporting h

/-- Every command that reports can report `E_PARAM` (spec/43_byte_string_api.md R180). -/
theorem param_mem_kinds {i : Instr} {o : Origin} (h : reportOrigin i = some o) : .param ∈ o.kinds := by
  cases i with
  | cbCreate | cbEnq _ | cbDeq | cbPeekLast => cases h
  | init _ | sendUpdate _ | recvUpdate _ | sendByte _ _ | recvByte _ _ | sendString _ _ _ | recvString _ _ _
  | peekLastByte _ _ => cases h; exact List.mem_cons_self

/-- A report has the record of its command, of one of the command's kinds. -/
theorem Reporting.mem_newEvents {i : Instr} {s t : State} {r : Report} (h : Reporting i s t)
    (hr : .report r ∈ newEvents s t) : ∃ o, ∃ k ∈ o.kinds, reportOrigin i = some o ∧
      r = s.reportOf k o.instanceId o.operationId := by
  cases h with
  | param o _ ho ht =>
    subst ht
    exact ⟨o, .param, param_mem_kinds ho, ho, List.mem_singleton.1 ((s.shows_paramError _ _ _).mem_reports.1 hr)⟩
  | status h =>
    obtain ⟨es, hes, horigin⟩ := h.shown
    obtain ⟨o, k, hk, ho, -, rfl⟩ := horigin r (hes.mem_reports.1 hr)
    exact ⟨o, k, hk, ho, rfl⟩
  | silent h => exact absurd hr (h.no_report r)

/-- A command that has made an `E_PARAM` has failed its validation. -/
theorem Reporting.eq_paramError {i : Instr} {s t : State} {r : Report} (h : Reporting i s t)
    (hr : .report r ∈ newEvents s t) (hk : r.kind = .param) : ∃ inst op res, t = s.paramError inst op res := by
  cases h with
  | param o res _ ht => exact ⟨_, _, res, ht⟩
  | status h =>
    obtain ⟨es, hes, horigin⟩ := h.shown
    obtain ⟨o, k, -, -, hne, rfl⟩ := horigin r (hes.mem_reports.1 hr)
    exact absurd hk hne
  | silent h => exact absurd hr (h.no_report r)

/-- A command that starts on a running block has had the reporter's return from every report, or has stopped at its last. -/
theorem Reporting.halts {i : Instr} {s t : State} (h : Reporting i s t) (hs : s.halted = none) :
    s.Unhalted t ∨ ∃ r, s.HaltedBy r t := by
  cases h with
  | param o res _ ht => exact ht ▸ State.paramError_halts hs _ _ _
  | status h => exact h.halts hs
  | silent h => exact .inl ((State.Underway.refl hs).toUnhalted.next h)

/-- Settles O38: the record of every report is read off the table of causes. -/
theorem reportsNameTheirCommand : Obligations.ReportsNameTheirCommand := by
  unfold Obligations.ReportsNameTheirCommand
  intro i s t r h hr
  obtain ⟨o, k, hk, ho, rfl⟩ := (exec_reporting h).mem_newEvents hr
  exact ⟨rfl, o, ho, rfl, rfl, hk⟩

/-- Settles O39: the command has failed its validation, which makes the one report and changes nothing. -/
theorem paramReportStandsAlone : Obligations.ParamReportStandsAlone := by
  unfold Obligations.ParamReportStandsAlone
  intro i s t r h hr hk
  obtain ⟨inst, op, res, rfl⟩ := (exec_reporting h).eq_paramError hr hk
  have hshows := s.shows_paramError inst op res
  obtain rfl : r = s.paramReport inst op := List.mem_singleton.1 (hshows.mem_reports.1 hr)
  obtain ⟨hanswers, hdraws⟩ := hshows.no_answer rfl
  exact ⟨hshows.reports, hshows.accesses, s.paramError_uarts _ _ _, (s.paramError_same _ _ _).mem, hanswers, hdraws,
    s.paramError_fifo _ _ _⟩

/-- A command on a running block stops it exactly at a report of which `REPORTER_HALTS` holds. -/
theorem exec_halted_iff {i : Instr} {s t : State} {r : Report} (hs : s.halted = none) (h : exec i s = .next t) :
    t.halted = some r ↔ .report r ∈ newEvents s t ∧ r ∈ s.config.halts := by
  rcases (exec_reporting h).halts hs with hrun | ⟨q, hstop⟩
  · obtain ⟨es, hes, hret⟩ := hrun.shown
    simp only [hrun.halted, hes.mem_reports, reduceCtorEq, false_iff, not_and]
    exact hret r
  · obtain ⟨es, hes, hret⟩ := hstop.shown
    rw [hstop.halted, hes.mem_reports, reportsOf_append, List.mem_append, Option.some.injEq]
    constructor
    · rintro rfl
      exact ⟨.inr List.mem_cons_self, hstop.halts⟩
    · rintro ⟨hr | hr, hmem⟩
      · exact absurd hmem (hret r hr)
      · exact (List.mem_singleton.1 hr).symm

/-- A block stopped by its reporter takes no step (spec/60_exceptions.md R215). -/
theorem step_halted {s : State} {r : Report} (hw : s.config.wf = true) (hs : s.halted = some r) :
    step s = .fault (.reporterHalted r) := by simp [step, hw, hs]

/-- Settles O40: a command goes on after every report but one the reporter does not return from. -/
theorem haltingReportStopsTheBlock : Obligations.HaltingReportStopsTheBlock := by
  unfold Obligations.HaltingReportStopsTheBlock
  refine ⟨rfl, fun i s t r hs h => ⟨exec_halted_iff hs h, fun ht => ?_⟩, fun s r => step_halted⟩
  rcases (exec_reporting h).halts hs with hrun | ⟨q, hstop⟩
  · rw [hrun.halted] at ht
    cases ht
  · obtain rfl : q = r := Option.some.inj (hstop.halted.symm.trans ht)
    exact ⟨hstop.last, hstop.queue _, hstop.fifo⟩

/-- Settles O41: the step starts on a running block, and only a report of which `REPORTER_HALTS` holds stops one. -/
theorem returningReporterNeverHalts : Obligations.ReturningReporterNeverHalts := by
  unfold Obligations.ReturningReporterNeverHalts
  intro s t hc h
  obtain ⟨-, hs, ⟨-, rfl⟩ | ⟨a, u, hu, ha⟩⟩ := step_next h
  · exact hs
  · have huc := (State.nextAgent_same hu).config
    have hus : u.halted = none := by
      obtain ⟨rest, -, ⟨p, -, rfl⟩ | ⟨-, rfl⟩⟩ := State.nextAgent_some hu <;> exact hs
    rcases agentStep_next ha with ⟨-, -, rfl⟩ | ⟨-, rfl⟩ | ⟨w, i, -, -, hexec⟩
    · exact hus
    · exact hus
    · refine Option.eq_none_iff_forall_ne_some.2 fun r hr => ?_
      have hmem := ((exec_halted_iff hus hexec).1 hr).2
      rw [huc, hc] at hmem
      cases hmem

end Sys2Proof.Machine

/-! What a step does to the trace, the answers and the commands presented (spec/00_scope.md R17, spec/20_memory.md R73,
spec/60_exceptions.md R210). -/

namespace Sys2Proof.Machine

/-! ### The word an agent fetches -/

theorem decode_d_format {w : Word} {i : Instr} (h : decode (.d w) = .ok i) : i.format = .d := by
  have hw := decode_eq_ok_iff.1 h
  cases i with
  | cbCreate | cbEnq _ | cbDeq | cbPeekLast => cases hw
  | init _ | sendUpdate _ | recvUpdate _ | sendByte _ _ | recvByte _ _ | sendString _ _ _ | recvString _ _ _
  | peekLastByte _ _ => rfl

theorem decode_f_format {w : FWord} {i : Instr} (h : decode (.f w) = .ok i) : i.format = .f := by
  have hw := decode_eq_ok_iff.1 h
  cases i with
  | cbCreate | cbEnq _ | cbDeq | cbPeekLast => rfl
  | init _ | sendUpdate _ | recvUpdate _ | sendByte _ _ | recvByte _ _ | sendString _ _ _ | recvString _ _ _
  | peekLastByte _ _ => cases hw

/-- A driver port fetches driver commands, the stand-alone buffer's port primitives. -/
theorem fetch_format {a : Agent} {s : State} {w : CmdWord} {i : Instr} (hf : s.fetch a = some w)
    (hd : decode w = .ok i) : (∃ p, a = .port p ∧ i.format = .d) ∨ (a = .fifo ∧ i.format = .f) := by
  cases a with
  | port p =>
    obtain ⟨c, -, rfl⟩ := Option.map_eq_some_iff.1 hf
    exact .inl ⟨p, rfl, decode_d_format hd⟩
  | fifo =>
    obtain ⟨v, -, rfl⟩ := Option.map_eq_some_iff.1 hf
    exact .inr ⟨rfl, decode_f_format hd⟩
  | hwReset => cases hf

theorem fetch_port_none {s : State} {p : Port} (h : s.fetch (.port p) = none) : s.queue p = [] :=
  List.head?_eq_none_iff.1 (Option.map_eq_none_iff.1 h)

theorem fetch_fifo_none {s : State} (h : s.fetch .fifo = none) : s.fifo.queue = [] :=
  List.head?_eq_none_iff.1 (Option.map_eq_none_iff.1 h)

theorem State.sched_of_nextAgent_none {s : State} (h : s.nextAgent = none) : s.sched = [] := by
  unfold State.nextAgent at h
  split at h
  · assumption
  · cases h
  · cases h

/-! ### What an operation leaves as it was -/

section Commands

variable {s t : State}

/-- A command shows its accesses and reports at the end of the trace. -/
theorem exec_shows {i : Instr} (h : exec i s = .next t) : ∃ es, s.Shows es t := by
  cases exec_reporting h with
  | param o r _ ht => exact ⟨_, ht ▸ s.shows_paramError _ _ _⟩
  | status h => exact h.shown.imp fun _ h => h.1
  | silent h => exact h.shown.imp fun _ h => h.1

theorem State.Shows.trace_prefix {es : List Event} (h : s.Shows es t) : s.trace <+: t.trace := by
  obtain ⟨new, hnew, -⟩ := h.trace
  exact ⟨new, hnew.symm⟩

theorem State.Shows.answers_suffix {es : List Event} (h : s.Shows es t) : t.answers <:+ s.answers :=
  h.answers ▸ List.drop_suffix _ _

/-- No effect of an operation changes a parameter. -/
theorem Effect.config (h : Effect s t) : t.config = s.config := by
  cases h with
  | same h | txEnq _ _ _ _ _ h | txLost _ _ _ _ _ _ h | txSent _ _ _ _ _ _ h | rxPush _ _ _ _ _ h | rxDeq _ _ _ _ _ h
  | fifo _ _ h => exact h.config
  | init h => exact h.config.trans (foldl_initRecord_config _ s)

/-- A driver command leaves the stand-alone buffer's port alone. -/
theorem exec_driver_fifo {i : Instr} (hi : i.format = .d) (h : exec i s = .next t) : t.fifo = s.fifo := by
  by_cases hinit : ∃ pv, i = .init pv
  · obtain ⟨pv, rfl⟩ := hinit
    cases pv <;> cases h
    · exact s.paramError_fifo _ _ _
    · rw [State.ret_fifo, foldl_initRecord_fifo]
  · exact (instancesAreIsolated i s t (not_exists.1 hinit) h).2 hi

/-- From `s` to `t` a primitive has been taken off its port, and the driver ports are as they were. -/
structure State.TakesPrimitive (s t : State) : Prop where
  fg    : t.fg = s.fg
  tick  : t.tick = s.tick
  queue : t.fifo.queue = s.fifo.queue.tail

theorem execCbEnq_takes {x : Byte} (h : execCbEnq x s = .next t) : s.TakesPrimitive t := by
  unfold execCbEnq at h
  split at h <;> cases h <;> exact ⟨rfl, rfl, rfl⟩

theorem execCbDeq_takes (h : execCbDeq s = .next t) : s.TakesPrimitive t := by
  unfold execCbDeq at h
  split at h <;> cases h <;> exact ⟨rfl, rfl, rfl⟩

theorem execCbPeekLast_takes (h : execCbPeekLast s = .next t) : s.TakesPrimitive t := by
  unfold execCbPeekLast at h
  split at h <;> cases h <;> exact ⟨rfl, rfl, rfl⟩

theorem exec_primitive_takes {i : Instr} (hi : i.format = .f) (h : exec i s = .next t) : s.TakesPrimitive t := by
  cases i with
  | cbCreate => cases h; exact ⟨rfl, rfl, rfl⟩
  | cbEnq _ => exact execCbEnq_takes h
  | cbDeq => exact execCbDeq_takes h
  | cbPeekLast => exact execCbPeekLast_takes h
  | init _ | sendUpdate _ | recvUpdate _ | sendByte _ _ | recvByte _ _ | sendString _ _ _ | recvString _ _ _
  | peekLastByte _ _ => cases hi

end Commands

/-! ### The queues over one step -/

/-- The first command of the queue has left, or is still there with its word and its source as presented. -/
def ServedQueue (q q' : List Command) : Prop :=
  q' = q.tail ∨ ∃ c rest dst k, q = c :: rest ∧ q' = { c with dst := dst, progress := k } :: rest

theorem HeadContinues.servedQueue {n : Nat} {q q' : List Command} (h : HeadContinues n q q') : ServedQueue q q' := by
  cases h with
  | nil => exact .inl rfl
  | @cons c d rest h => exact .inr ⟨c, rest, d.dst, d.progress, rfl, by rw [← h.word, ← h.src]⟩

/-- What the step of the agent `a` keeps of the trace, the answers, the parameters and the commands presented. -/
structure State.SteppedBy (a : Agent) (s t : State) : Prop where
  trace     : s.trace <+: t.trace
  answers   : t.answers <:+ s.answers
  config    : t.config = s.config
  others    : ∀ p, a ≠ .port p → t.queue p = s.queue p
  own       : ∀ p, a = .port p → ServedQueue (s.queue p) (t.queue p)
  fifoOther : a ≠ .fifo → t.fifo.queue = s.fifo.queue
  fifoOwn   : a = .fifo → t.fifo.queue = s.fifo.queue.tail

section Step

variable {s t : State} {a : Agent}

theorem State.steppedBy_hardReset (s : State) : s.SteppedBy .hwReset s.hardReset where
  trace := List.prefix_refl _
  answers := List.suffix_refl _
  config := rfl
  others p _ := State.queue_congr rfl rfl p
  own _ h := nomatch h
  fifoOther _ := rfl
  fifoOwn h := nomatch h

theorem State.steppedBy_idle (h : s.fetch a = none) : s.SteppedBy a s where
  trace := List.prefix_refl _
  answers := List.suffix_refl _
  config := rfl
  others _ _ := rfl
  own p hp := .inl (by subst hp; rw [fetch_port_none h]; rfl)
  fifoOther _ := rfl
  fifoOwn ha := by subst ha; rw [fetch_fifo_none h]; rfl

theorem exec_driver_steppedBy {i : Instr} (hi : i.format = .d) (h : exec i s = .next t) :
    s.SteppedBy (.port s.turn) t := by
  obtain ⟨es, hes⟩ := exec_shows h
  have hserved := exec_served h
  have hfifo := exec_driver_fifo hi h
  exact {
    trace := hes.trace_prefix
    answers := hes.answers_suffix
    config := (exec_effect h).config
    others := fun p hp => hserved.others p fun heq => hp (heq ▸ rfl)
    own := fun p hp => by cases hp; exact hserved.own.elim .inl HeadContinues.servedQueue
    fifoOther := fun _ => congrArg Fifo.queue hfifo
    fifoOwn := nofun }

theorem exec_primitive_steppedBy {i : Instr} (hi : i.format = .f) (h : exec i s = .next t) : s.SteppedBy .fifo t := by
  obtain ⟨es, hes⟩ := exec_shows h
  have htakes := exec_primitive_takes hi h
  exact {
    trace := hes.trace_prefix
    answers := hes.answers_suffix
    config := (exec_effect h).config
    others := fun p _ => State.queue_congr htakes.fg htakes.tick p
    own := nofun
    fifoOther := fun h => absurd rfl h
    fifoOwn := fun _ => htakes.queue }

/-- Every agent's step, taken with the turn set to the agent's port. -/
theorem agentStep_steppedBy (hturn : ∀ p, a = .port p → s.turn = p) (h : agentStep a s = .next t) :
    s.SteppedBy a t := by
  rcases agentStep_next h with ⟨rfl, -, rfl⟩ | ⟨hf, rfl⟩ | ⟨w, i, hf, hd, hexec⟩
  · exact s.steppedBy_hardReset
  · exact State.steppedBy_idle hf
  · rcases fetch_format hf hd with ⟨p, rfl, hi⟩ | ⟨rfl, hi⟩
    · exact hturn p rfl ▸ exec_driver_steppedBy hi hexec
    · exact exec_primitive_steppedBy hi hexec

/-- The schedule and the turn are no part of what the step keeps. -/
theorem State.SteppedBy.of_with_turn {l : List Agent} {p : Port}
    (h : State.SteppedBy a { s with sched := l, turn := p } t) : s.SteppedBy a t :=
  ⟨h.trace, h.answers, h.config, fun q hq => (h.others q hq).trans (s.queue_with_turn l p q),
    fun q hq => s.queue_with_turn l p q ▸ h.own q hq, h.fifoOther, h.fifoOwn⟩

end Step

/-- The step of a scheduled agent. -/
theorem nextAgent_steppedBy {s u t : State} {a : Agent} (hu : s.nextAgent = some (a, u))
    (ha : agentStep a u = .next t) : s.sched.head? = some a ∧ s.SteppedBy a t := by
  obtain ⟨rest, hs, ⟨p, rfl, rfl⟩ | ⟨hne, rfl⟩⟩ := State.nextAgent_some hu
  · exact ⟨by rw [hs]; rfl, (agentStep_steppedBy (fun q hq => Agent.port.inj hq) ha).of_with_turn⟩
  · exact ⟨by rw [hs]; rfl, (agentStep_steppedBy (fun q hq => absurd hq (hne q)) ha).of_with_turn⟩

/-- Settles O48: the step is that of the agent the schedule names, which serves the queue of its own port only. -/
theorem traceIsAppendOnly : Obligations.TraceIsAppendOnly := by
  unfold Obligations.TraceIsAppendOnly
  intro s t h
  obtain ⟨-, -, ⟨hnone, rfl⟩ | ⟨a, u, hu, ha⟩⟩ := step_next h
  · rw [State.sched_of_nextAgent_none hnone]
    exact ⟨List.prefix_refl _, List.suffix_refl _, rfl, fun _ _ => rfl, nofun, fun _ => rfl, nofun⟩
  · obtain ⟨hhead, hstep⟩ := nextAgent_steppedBy hu ha
    simp only [hhead, ne_eq, Option.some.injEq]
    exact ⟨hstep.trace, hstep.answers, hstep.config, hstep.others, hstep.own, hstep.fifoOther, hstep.fifoOwn⟩

end Sys2Proof.Machine

/-! Hardware reset between commands, and the commands of an Uninitialized block (spec/70_reset_and_hazards.md R250,
R251). -/

namespace Sys2Proof.Machine

variable {s : State}

/-- No instance of an Uninitialized block is ready, the blank record read beyond the instances included. -/
theorem State.uart_ready_of_not_ready (h : s.isReady = false) (i : Nat) : (s.uart i).ready = false := by
  by_cases hi : i < s.uarts.length
  · exact Bool.eq_false_iff.2 fun hr => Bool.eq_false_iff.1 h (s.isReady_iff.2 ⟨i, hi, hr⟩)
  · rw [State.uart, List.getD_eq_default _ _ (not_lt.1 hi), Uart.blank]

/-- The reset line acts between commands. -/
theorem agentStep_hwReset (h : s.insideCommand = false) : agentStep .hwReset s = .next s.hardReset := by
  simp [agentStep, h]

/-- A reset the schedule names next, between commands, is the step. -/
theorem step_hwReset {rest : List Agent} (hw : s.config.wf = true) (hh : s.halted = none)
    (hs : s.sched = .hwReset :: rest) (hc : s.insideCommand = false) :
    step s = .next { s with sched := rest }.hardReset := by
  rw [step_agent hw hh (State.nextAgent_hwReset hs)]
  exact agentStep_hwReset hc

/-- Settles O9: the step is `hardReset`, which leaves blank instances. -/
theorem hardwareResetClearsReady : Obligations.HardwareResetClearsReady := by
  unfold Obligations.HardwareResetClearsReady
  intro s rest hshape hh hs hc
  have hnot : ({ s with sched := rest } : State).hardReset.isReady = false := State.isReady_blank rfl
  exact ⟨_, step_hwReset hshape.config_wf hh hs hc, State.uart_ready_of_not_ready hnot, hnot, rfl, rfl, rfl, rfl, rfl, rfl,
    rfl, rfl, hh⟩

/-- An operation on an instance starts with the check for Ready, before it validates its arguments. -/
theorem exec_inst_not_ready {i : Instr} {inst : Byte} (hi : instOf i = some inst) (h : s.isReady = false) :
    exec i s = .refused .notInitialized := by
  cases i with
  | cbCreate | cbEnq _ | cbDeq | cbPeekLast | init _ => cases hi
  | sendUpdate _ | recvUpdate _ | sendByte _ _ | recvByte _ _ | sendString _ _ _ | recvString _ _ _
  | peekLastByte _ _ =>
    simp only [exec, execSendUpdate, execRecvUpdate, execSendByte, execRecvByte, execSendString, execRecvString,
      execPeekLastByte, State.whenReady_not_ready _ h]

/-- Settles O10: a driver command other than INIT names an instance. -/
theorem commandsBeforeInitRefused : Obligations.CommandsBeforeInitRefused := by
  unfold Obligations.CommandsBeforeInitRefused
  intro i s h hd hinit
  rcases instOf_or_format_f hinit with ⟨inst, hinst⟩ | ⟨-, hf⟩
  · exact exec_inst_not_ready hinst h
  · rw [hf] at hd
    cases hd

end Sys2Proof.Machine
